-- ==== Sys2Proof/Word.lean ====
section
/-! DEFINITION. The word types of the knocket CHIP-8 core (spec/00_scope.md R4, R6): every stored value is an
unsigned bit vector of a stated width. -/

namespace Sys2Proof

/-- 8 bits: a general register, the delay timer, a byte of memory (R6). -/
abbrev Byte := BitVec 8

/-- 16 bits: the program counter, the index register, a call-stack entry, an instruction word (R6). -/
abbrev Word := BitVec 16

/-- A 4-bit register field of an instruction word: it names one of `x[0]` to `x[15]` (R21, R81). -/
abbrev Reg := BitVec 4

/-- The 12-bit address operand `NNN = op[11:0]` (R81). -/
abbrev Addr12 := BitVec 12

/-- The index of the flag register, `FLAGREG = 15` (R4, R22). -/
abbrev flagReg : Reg := 15#4

end Sys2Proof
end

