-- ==== Sys2Proof/Syntax.lean ====
section
/-! DEFINITION. The 33 instructions of spec/opcode_table.json, one constructor per row, in the table's order
(R84 to R88, R92). The operand fields are those the instruction uses: the low nibble of 5XYn and 9XYn and the `Y`
field of SHR and SHL are ignored by decode (R86, R89), so the instruction does not hold them (log entry 11). -/

namespace Sys2Proof

/-- The decoded instruction variant of R92. -/
inductive Instr where
  /-- CLS, clear-screen (R110). -/
  | cls
  /-- RET, return (R111). -/
  | ret
  /-- JP nnn, jump (R112). -/
  | jp (nnn : Addr12)
  /-- CALL nnn, call (R113). -/
  | call (nnn : Addr12)
  /-- SE Vx,kk, skip-if-equal-immediate (R120). -/
  | seImm (x : Reg) (kk : Byte)
  /-- SNE Vx,kk, skip-if-not-equal-immediate (R121). -/
  | sneImm (x : Reg) (kk : Byte)
  /-- SE Vx,Vy, skip-if-registers-equal (R122). -/
  | seReg (x y : Reg)
  /-- LD Vx,kk, load-immediate (R130). -/
  | ldImm (x : Reg) (kk : Byte)
  /-- ADD Vx,kk, add-immediate (R131). -/
  | addImm (x : Reg) (kk : Byte)
  /-- LD Vx,Vy, copy (R141). -/
  | ldReg (x y : Reg)
  /-- OR Vx,Vy (R142). -/
  | orReg (x y : Reg)
  /-- AND Vx,Vy (R143). -/
  | andReg (x y : Reg)
  /-- XOR Vx,Vy (R144). -/
  | xorReg (x y : Reg)
  /-- ADD Vx,Vy, add (R145). -/
  | addReg (x y : Reg)
  /-- SUB Vx,Vy, subtract (X - Y) (R146). -/
  | subReg (x y : Reg)
  /-- SHR Vx, shift-right (R147). -/
  | shr (x : Reg)
  /-- SUBN Vx,Vy, reverse-subtract (Y - X) (R148). -/
  | subnReg (x y : Reg)
  /-- SHL Vx, shift-left (R149). -/
  | shl (x : Reg)
  /-- SNE Vx,Vy, skip-if-registers-not-equal (R123). -/
  | sneReg (x y : Reg)
  /-- LD I,nnn, set-index-immediate (R132). -/
  | ldI (nnn : Addr12)
  /-- JP V0,nnn, jump-with-offset (R114). -/
  | jpV0 (nnn : Addr12)
  /-- RND Vx,kk, random-and-mask (R133). -/
  | rnd (x : Reg) (kk : Byte)
  /-- DRW Vx,Vy,n, draw-sprite (R160). -/
  | drw (x y : Reg) (n : BitVec 4)
  /-- SKP Vx, skip-if-key-pressed (R124). -/
  | skp (x : Reg)
  /-- SKNP Vx, skip-if-key-not-pressed (R125). -/
  | sknp (x : Reg)
  /-- LD Vx,DT, get-delay-timer (R170). -/
  | ldVxDt (x : Reg)
  /-- LD Vx,K, wait-for-key (R171). -/
  | ldVxK (x : Reg)
  /-- LD DT,Vx, set-delay-timer (R172). -/
  | ldDtVx (x : Reg)
  /-- ADD I,Vx, add-to-index (R173). -/
  | addI (x : Reg)
  /-- LD F,Vx, set-index-to-glyph (R174). -/
  | ldF (x : Reg)
  /-- LD B,Vx, store-BCD (R175). -/
  | ldB (x : Reg)
  /-- LD [I],Vx, store-register-block (R176). -/
  | storeRegs (x : Reg)
  /-- LD Vx,[I], load-register-block (R177). -/
  | loadRegs (x : Reg)
  deriving DecidableEq, Repr

end Sys2Proof
end

