-- ==== Sys2Proof/WellFormed.lean ====
section
/-! DEFINITION. When an instruction's operands lie in the ranges of R83 and R91. The source asks that "all register
indices used by decoded instructions lie in [0,15]", checked "inclusively"; rule R91 says that with 4-bit fields the
check can never fail. The checks are written over plain numbers, so that each can refuse one (index 16, say). -/

namespace Sys2Proof

/-- A register index lies in 0 to 15, inclusively (R91). -/
def regIndexOk (n : Nat) : Bool := decide (n ≤ 15)

/-- An address operand is a 12-bit value (R83). -/
def addrOperandOk (n : Nat) : Bool := decide (n ≤ 0xFFF)

/-- An immediate byte is an 8-bit value (R83). -/
def byteOperandOk (n : Nat) : Bool := decide (n ≤ 0xFF)

/-- A sprite height is a 4-bit value; 0 is accepted (R83, R163). -/
def heightOperandOk (n : Nat) : Bool := decide (n ≤ 15)

/-- Every operand of the instruction passes its check. -/
def Instr.wellFormed : Instr → Bool
  | .cls | .ret => true
  | .jp nnn | .call nnn | .ldI nnn | .jpV0 nnn => addrOperandOk nnn.toNat
  | .seImm x kk | .sneImm x kk | .ldImm x kk | .addImm x kk | .rnd x kk =>
      regIndexOk x.toNat && byteOperandOk kk.toNat
  | .seReg x y | .sneReg x y | .ldReg x y | .orReg x y | .andReg x y | .xorReg x y | .addReg x y
  | .subReg x y | .subnReg x y => regIndexOk x.toNat && regIndexOk y.toNat
  | .drw x y n => regIndexOk x.toNat && regIndexOk y.toNat && heightOperandOk n.toNat
  | .shr x | .shl x | .skp x | .sknp x | .ldVxDt x | .ldVxK x | .ldDtVx x | .addI x | .ldF x | .ldB x
  | .storeRegs x | .loadRegs x => regIndexOk x.toNat

end Sys2Proof
end

