-- ==== Sys2Proof/Decode.lean ====
section
/-! DEFINITION. Decode (spec/30_encoding.md R80 to R92), total on any bytes and rejecting by name, and after it the
encoder, written from the same encoding tables. Also the opcode table of spec/opcode_table.json as data. The numerals
are those of the spec's rules, which mark most of them as general knowledge (D31; log entry 7). -/

namespace Sys2Proof

/-! ### Fields of the instruction word (R5, R81) -/

/-- `fam = op[15:12]`. -/
def Op.fam (op : Word) : BitVec 4 := op.extractLsb' 12 4
/-- `X = op[11:8]`. -/
def Op.x (op : Word) : Reg := op.extractLsb' 8 4
/-- `Y = op[7:4]`. -/
def Op.y (op : Word) : Reg := op.extractLsb' 4 4
/-- `N = op[3:0]`. -/
def Op.n (op : Word) : BitVec 4 := op.extractLsb' 0 4
/-- `KK = op[7:0]`. -/
def Op.kk (op : Word) : Byte := op.extractLsb' 0 8
/-- `NNN = op[11:0]`. -/
def Op.nnn (op : Word) : Addr12 := op.extractLsb' 0 12

/-! ### Decode -/

/-- Why a sequence of bytes is no instruction. -/
inductive DecodeReject where
  /-- Fewer than the two bytes of an instruction (R80). The run cycle never meets it: it fetches two bytes. -/
  | truncated (bytes : List Byte)
  /-- The `Illegal` variant of R92: a word that R84 to R88 do not recognise (R90). -/
  | illegalOpcode (op : Word)
  deriving DecidableEq, Repr

/-- Family 0x0 compares the whole word (R85). -/
def decodeFam0 (op : Word) : Except DecodeReject Instr :=
  if op = 0x00E0#16 then .ok .cls
  else if op = 0x00EE#16 then .ok .ret
  else .error (.illegalOpcode op)

/-- Family 0x8 dispatches on the low nibble (R86). -/
def decodeFam8 (op : Word) : Except DecodeReject Instr :=
  match (Op.n op).toNat with
  | 0x0 => .ok (.ldReg (Op.x op) (Op.y op))
  | 0x1 => .ok (.orReg (Op.x op) (Op.y op))
  | 0x2 => .ok (.andReg (Op.x op) (Op.y op))
  | 0x3 => .ok (.xorReg (Op.x op) (Op.y op))
  | 0x4 => .ok (.addReg (Op.x op) (Op.y op))
  | 0x5 => .ok (.subReg (Op.x op) (Op.y op))
  | 0x6 => .ok (.shr (Op.x op))
  | 0x7 => .ok (.subnReg (Op.x op) (Op.y op))
  | 0xE => .ok (.shl (Op.x op))
  | _ => .error (.illegalOpcode op)

/-- Family 0xE dispatches on the low byte (R87). -/
def decodeFamE (op : Word) : Except DecodeReject Instr :=
  match (Op.kk op).toNat with
  | 0x9E => .ok (.skp (Op.x op))
  | 0xA1 => .ok (.sknp (Op.x op))
  | _ => .error (.illegalOpcode op)

/-- Family 0xF dispatches on the low byte (R88). -/
def decodeFamF (op : Word) : Except DecodeReject Instr :=
  match (Op.kk op).toNat with
  | 0x07 => .ok (.ldVxDt (Op.x op))
  | 0x0A => .ok (.ldVxK (Op.x op))
  | 0x15 => .ok (.ldDtVx (Op.x op))
  | 0x1E => .ok (.addI (Op.x op))
  | 0x29 => .ok (.ldF (Op.x op))
  | 0x33 => .ok (.ldB (Op.x op))
  | 0x55 => .ok (.storeRegs (Op.x op))
  | 0x65 => .ok (.loadRegs (Op.x op))
  | _ => .error (.illegalOpcode op)

/-- `decode : Word16 -> Instr` of R92, a pure total function of the word: the family selects first (R84), and
families 0x0, 0x8, 0xE, 0xF have a second level. -/
def decodeWord (op : Word) : Except DecodeReject Instr :=
  match (Op.fam op).toNat with
  | 0x0 => decodeFam0 op
  | 0x1 => .ok (.jp (Op.nnn op))
  | 0x2 => .ok (.call (Op.nnn op))
  | 0x3 => .ok (.seImm (Op.x op) (Op.kk op))
  | 0x4 => .ok (.sneImm (Op.x op) (Op.kk op))
  | 0x5 => .ok (.seReg (Op.x op) (Op.y op))
  | 0x6 => .ok (.ldImm (Op.x op) (Op.kk op))
  | 0x7 => .ok (.addImm (Op.x op) (Op.kk op))
  | 0x8 => decodeFam8 op
  | 0x9 => .ok (.sneReg (Op.x op) (Op.y op))
  | 0xA => .ok (.ldI (Op.nnn op))
  | 0xB => .ok (.jpV0 (Op.nnn op))
  | 0xC => .ok (.rnd (Op.x op) (Op.kk op))
  | 0xD => .ok (.drw (Op.x op) (Op.y op) (Op.n op))
  | 0xE => decodeFamE op
  | _ => decodeFamF op

/-- Decode the instruction at the head of a list of bytes: two bytes, the first the high byte (R55, R80). -/
def decodeBytes : List Byte → Except DecodeReject (Instr × List Byte)
  | b0 :: b1 :: rest =>
    match decodeWord (b0 ++ b1) with
    | .ok i => .ok (i, rest)
    | .error e => .error e
  | bytes => .error (.truncated bytes)

/-! ### Encode -/

/-- The canonical word of an instruction (R82, R93): an ignored field is 0. -/
def encode : Instr → Word
  | .cls => 0x00E0#16
  | .ret => 0x00EE#16
  | .jp nnn => 0x1#4 ++ nnn
  | .call nnn => 0x2#4 ++ nnn
  | .seImm x kk => 0x3#4 ++ x ++ kk
  | .sneImm x kk => 0x4#4 ++ x ++ kk
  | .seReg x y => 0x5#4 ++ x ++ y ++ 0x0#4
  | .ldImm x kk => 0x6#4 ++ x ++ kk
  | .addImm x kk => 0x7#4 ++ x ++ kk
  | .ldReg x y => 0x8#4 ++ x ++ y ++ 0x0#4
  | .orReg x y => 0x8#4 ++ x ++ y ++ 0x1#4
  | .andReg x y => 0x8#4 ++ x ++ y ++ 0x2#4
  | .xorReg x y => 0x8#4 ++ x ++ y ++ 0x3#4
  | .addReg x y => 0x8#4 ++ x ++ y ++ 0x4#4
  | .subReg x y => 0x8#4 ++ x ++ y ++ 0x5#4
  | .shr x => 0x8#4 ++ x ++ 0x0#4 ++ 0x6#4
  | .subnReg x y => 0x8#4 ++ x ++ y ++ 0x7#4
  | .shl x => 0x8#4 ++ x ++ 0x0#4 ++ 0xE#4
  | .sneReg x y => 0x9#4 ++ x ++ y ++ 0x0#4
  | .ldI nnn => 0xA#4 ++ nnn
  | .jpV0 nnn => 0xB#4 ++ nnn
  | .rnd x kk => 0xC#4 ++ x ++ kk
  | .drw x y n => 0xD#4 ++ x ++ y ++ n
  | .skp x => 0xE#4 ++ x ++ 0x9E#8
  | .sknp x => 0xE#4 ++ x ++ 0xA1#8
  | .ldVxDt x => 0xF#4 ++ x ++ 0x07#8
  | .ldVxK x => 0xF#4 ++ x ++ 0x0A#8
  | .ldDtVx x => 0xF#4 ++ x ++ 0x15#8
  | .addI x => 0xF#4 ++ x ++ 0x1E#8
  | .ldF x => 0xF#4 ++ x ++ 0x29#8
  | .ldB x => 0xF#4 ++ x ++ 0x33#8
  | .storeRegs x => 0xF#4 ++ x ++ 0x55#8
  | .loadRegs x => 0xF#4 ++ x ++ 0x65#8

/-- The high byte of a word, `w[15:8]`. -/
def Op.highByte (w : Word) : Byte := w.extractLsb' 8 8

/-- The low byte of a word, `w[7:0]`. -/
def Op.lowByte (w : Word) : Byte := w.extractLsb' 0 8

/-- A word as it is stored: high byte at the lower address (R55, R80). -/
def wordBytes (w : Word) : List Byte := [Op.highByte w, Op.lowByte w]

/-- The two bytes of an instruction as they are stored. -/
def encodeBytes (i : Instr) : List Byte := wordBytes (encode i)

/-! ### The opcode table (spec/opcode_table.json) -/

/-- One row: `op` is the row's instruction exactly when `op &&& mask = pattern`. -/
structure OpcodeRow where
  mnemonic : String
  pattern : Word
  mask : Word
  deriving DecidableEq, Repr

/-- The rows of families 0x0 to 0x7. -/
def opcodeRowsLow : List OpcodeRow :=
  [⟨"CLS", 0x00E0, 0xFFFF⟩, ⟨"RET", 0x00EE, 0xFFFF⟩, ⟨"JP_nnn", 0x1000, 0xF000⟩, ⟨"CALL_nnn", 0x2000, 0xF000⟩,
   ⟨"SE_Vx_kk", 0x3000, 0xF000⟩, ⟨"SNE_Vx_kk", 0x4000, 0xF000⟩, ⟨"SE_Vx_Vy", 0x5000, 0xF000⟩,
   ⟨"LD_Vx_kk", 0x6000, 0xF000⟩, ⟨"ADD_Vx_kk", 0x7000, 0xF000⟩]

/-- The rows of family 0x8. -/
def opcodeRowsAlu : List OpcodeRow :=
  [⟨"LD_Vx_Vy", 0x8000, 0xF00F⟩, ⟨"OR_Vx_Vy", 0x8001, 0xF00F⟩, ⟨"AND_Vx_Vy", 0x8002, 0xF00F⟩,
   ⟨"XOR_Vx_Vy", 0x8003, 0xF00F⟩, ⟨"ADD_Vx_Vy", 0x8004, 0xF00F⟩, ⟨"SUB_Vx_Vy", 0x8005, 0xF00F⟩,
   ⟨"SHR_Vx", 0x8006, 0xF00F⟩, ⟨"SUBN_Vx_Vy", 0x8007, 0xF00F⟩, ⟨"SHL_Vx", 0x800E, 0xF00F⟩]

/-- The rows of families 0x9 to 0xE. -/
def opcodeRowsMid : List OpcodeRow :=
  [⟨"SNE_Vx_Vy", 0x9000, 0xF000⟩, ⟨"LD_I_nnn", 0xA000, 0xF000⟩, ⟨"JP_V0_nnn", 0xB000, 0xF000⟩,
   ⟨"RND_Vx_kk", 0xC000, 0xF000⟩, ⟨"DRW_Vx_Vy_n", 0xD000, 0xF000⟩, ⟨"SKP_Vx", 0xE09E, 0xF0FF⟩,
   ⟨"SKNP_Vx", 0xE0A1, 0xF0FF⟩]

/-- The rows of family 0xF. -/
def opcodeRowsF : List OpcodeRow :=
  [⟨"LD_Vx_DT", 0xF007, 0xF0FF⟩, ⟨"LD_Vx_K", 0xF00A, 0xF0FF⟩, ⟨"LD_DT_Vx", 0xF015, 0xF0FF⟩,
   ⟨"ADD_I_Vx", 0xF01E, 0xF0FF⟩, ⟨"LD_F_Vx", 0xF029, 0xF0FF⟩, ⟨"LD_B_Vx", 0xF033, 0xF0FF⟩,
   ⟨"LD__I__Vx", 0xF055, 0xF0FF⟩, ⟨"LD_Vx__I", 0xF065, 0xF0FF⟩]

/-- The 33 rows in the table's order. -/
def opcodeTable : List OpcodeRow := opcodeRowsLow ++ opcodeRowsAlu ++ opcodeRowsMid ++ opcodeRowsF

/-- The canonical form of a word (R86, R89, R93): the low nibble of 5XYn and 9XYn and the `Y` nibble of 8XY6 and
8XYE are 0; every other word is its own canonical form. -/
def canonicalWord (op : Word) : Word :=
  if op &&& 0xF000#16 = 0x5000#16 ∨ op &&& 0xF000#16 = 0x9000#16 then op &&& 0xFFF0#16
  else if op &&& 0xF00F#16 = 0x8006#16 ∨ op &&& 0xF00F#16 = 0x800E#16 then op &&& 0xFF0F#16
  else op

/-! ### The host's view of the decoder -/

/-- The instruction the decoder reads from a table word: the word is laid out as the hardware stores it, high byte
first, and given to `decodeBytes`. Bits at and above `nbits` are 0. -/
def decodeTableWord (nbits w : Nat) : Option Instr :=
  match decodeBytes (wordBytes (BitVec.ofNat 16 (w % 2 ^ nbits))) with
  | .ok (i, _) => some i
  | .error _ => none

end Sys2Proof
end

