-- ==== Sys2Proof/Config.lean ====
section
/-! DEFINITION. The parameters of rule R4 (spec/00_scope.md) and the values the spec leaves open. A parameter the
source fixes is a numeral; a parameter it leaves open and a free input is `opaque`, so that no proof can rest on
its value. -/

namespace Sys2Proof

/-! ### Fixed parameters (R4) -/

/-- `MEM_SIZE`: bytes of memory, addresses 0x000 to 0xFFF (R4, R33). -/
@[simp] abbrev Config.memSize : Nat := 0x1000

/-- `PROG_BASE`: first program byte, reset value of `pc`, lowest program-writable address (R4, R51). -/
@[simp] abbrev Config.progBase : Nat := 0x200

/-- `FB_W`: framebuffer width in pixels (R4, R31). -/
@[simp] abbrev Config.fbWidth : Nat := 64

/-- `FB_H`: framebuffer height in pixels (R4, R31: the source says 64 three times and the spec follows it). -/
@[simp] abbrev Config.fbHeight : Nat := 64

/-- `NKEYS`: keys in the keypad snapshot (R4, R35). -/
@[simp] abbrev Config.nKeys : Nat := 16

/-- `MAX_CALL_DEPTH`: the deepest nesting of calls that does not fault (R4, R30). -/
@[simp] abbrev Config.maxCallDepth : Nat := 15

/-- Bytes in the glyph table, `GLYPH_COUNT * GLYPH_BYTES = 80` (R4, R62). -/
@[simp] abbrev Config.glyphTableBytes : Nat := 80

/-! ### Parameters the spec leaves open -/

/-- `GLYPH_BASE`, the address of the first glyph byte: OPEN in R4 and R62 (D20), with
`0 <= GLYPH_BASE <= 0x1B0`, which is what the type says. Log entry 3, safe: a claim holds for every value. -/
opaque Config.glyphBase : Fin 0x1B1

/-- The 80 glyph bytes `GLYPH_ROM`: rule R63 makes them a parameter and gives this default, which the spec marks
as general knowledge (D21). PRESUMED, log entry 4, unsafe: a claim about what a glyph looks like rests on it. -/
def Config.glyphRom : List Byte :=
  ([0xF0, 0x90, 0x90, 0x90, 0xF0] ++ [0x20, 0x60, 0x20, 0x20, 0x70] ++
   [0xF0, 0x10, 0xF0, 0x80, 0xF0] ++ [0xF0, 0x10, 0xF0, 0x10, 0xF0] ++
   [0x90, 0x90, 0xF0, 0x10, 0x10] ++ [0xF0, 0x80, 0xF0, 0x10, 0xF0] ++
   [0xF0, 0x80, 0xF0, 0x90, 0xF0] ++ [0xF0, 0x10, 0x20, 0x40, 0x40]) ++
  ([0xF0, 0x90, 0xF0, 0x90, 0xF0] ++ [0xF0, 0x90, 0xF0, 0x10, 0xF0] ++
   [0xF0, 0x90, 0xF0, 0x90, 0x90] ++ [0xE0, 0x90, 0xE0, 0x90, 0xE0] ++
   [0xF0, 0x80, 0x80, 0x80, 0xF0] ++ [0xE0, 0x90, 0x90, 0x90, 0xE0] ++
   [0xF0, 0x80, 0xF0, 0x80, 0xF0] ++ [0xF0, 0x80, 0xF0, 0x80, 0x80])

/-- The alpha byte of a packed pixel: the source says "opaque" and no number (R32, D23).
Log entry 5, safe: left free. -/
opaque Config.opaqueAlpha : Byte

/-! ### Free inputs (R35, R202, R203) -/

/-- The keypad snapshot the host supplies with a cycle for which the state's `pending` list holds none, one
unconstrained value per draw. Log entry 1, safe. -/
opaque Config.freeKeys : Nat → BitVec 16

/-- The random byte the host supplies with such a cycle: "any 8-bit value, under no law, independent of every
other cycle's" (R203). Log entry 1, safe. -/
opaque Config.freeRnd : Nat → Byte

end Sys2Proof
end

