-- ==== Sys2Proof/Machine/State.lean ====
section
/-! DEFINITION. The machine's state as plain data (spec/10_state.md R20: "The complete state of the block is the
following, and nothing else"), the reasons a step can stop, and the state after reset (R38). -/

namespace Sys2Proof.Machine

/-- Why the model stops with `Host.Outcome.fault`: never. Every failure of this hardware is a fatal fault that
latches `halted`, `cause` and `finfo` and is a next state (R191, R198), so no meaning and no step raises one; the type
has no constructor, which is safe (log entry 8). -/
inductive Fault
  deriving DecidableEq, Repr

/-- Why the model refuses an instruction. -/
inductive Refusal where
  /-- Raised by an arm of `exec` whose instruction has no meaning yet; no arm does. Safe: nothing is claimed of it. -/
  | notModelled (mnemonic : String)
  deriving DecidableEq, Repr

/-- The fatal faults of R194, in the order of their codes. -/
inductive Cause where
  /-- Code 1: run cycle step 4, the word decodes to no instruction (R90). -/
  | illegalOpcode
  /-- Code 2: run cycle step 2, `pc` odd, below 0x200, or at or above 0x1000 (R56). -/
  | fetchFault
  /-- Code 3: a store below 0x200 by LD B or LD [I] (R53). -/
  | writeProtect
  /-- Code 4: a data address above 0xFFF, by DRW, LD B, LD [I] or LD Vx,[I] (R52, R53). -/
  | addressOutOfRange
  /-- Code 5: CALL with `sp = 15` (R64). -/
  | stackOverflow
  /-- Code 6: RET with `sp = 0` (R64). -/
  | stackUnderflow
  /-- Code 7: DRW, a set sprite bit outside the grid (R162). -/
  | drawOutOfRange
  /-- Code 8: SKP or SKNP with `x[X] > 15` (R124, R125). -/
  | keyIndexOutOfRange
  /-- Code 9: LD F,Vx with `x[X] > 15` (R174). -/
  | glyphDigitOutOfRange
  /-- Code 10: reserved, raised by nothing (R208). -/
  | registerIndexOutOfRange
  deriving DecidableEq, Repr

/-- What `raise F(info)` reports (R191): the fault and its 16-bit information. -/
structure FaultReport where
  cause : Cause
  info : Word
  deriving DecidableEq, Repr

/-- The two inputs of one run cycle (R35): bit `k` of `keys` is `keys[k]`, and one random byte. -/
structure CycleInput where
  keys : BitVec 16
  rnd : Byte
  deriving DecidableEq, Repr

/-- Memory as the list of the bytes that differ from what reset leaves, addresses strictly rising
(`Memory.wf`, Machine/Ops.lean). An address it does not list reads as `Memory.initial` (R38). -/
abbrev Memory := List Host.Cell

/-- The state. The first eleven fields are the spec's (R20); the last four are the model's own: the host's side of
the run-cycle operation, whose inputs the core does not retain (R35; log entry 1). -/
structure State where
  /-- `x[0]` to `x[15]`, the general registers; `x[15]` is the flag register (R21, R22). -/
  x : Vector Byte 16
  /-- `I`, the index register (R24). -/
  idx : Word
  /-- `pc`, the program counter (R25). -/
  pc : Word
  /-- `dt`, the delay timer, which nothing decrements (R28). -/
  dt : Byte
  /-- `mem`, 4096 bytes (R33). -/
  mem : Memory
  /-- `stack[0]` to `stack[15]` (R29). -/
  stack : Vector Word 16
  /-- `sp`, the number of calls that have not returned (R30). -/
  sp : BitVec 4
  /-- `fb`: row `py`, bit `px` is the cell `fb[px, py]`, whose linear index is `px + 64*py` (R31). -/
  fb : Vector (BitVec 64) 64
  /-- The fault latch: the core is halted (R34). -/
  halted : Bool
  /-- The fault latch: the code of the fault, 0 when not halted (R34, R194). -/
  cause : BitVec 4
  /-- The fault latch: the fault information, 0 when not halted (R34, R195). -/
  finfo : Word
  /-- Input: the keypad snapshot the host presents to the coming cycle (R35, R202). -/
  keys : BitVec 16
  /-- Input: the random byte the host presents to the coming cycle (R35, R203). -/
  rnd : Byte
  /-- Inputs the host will present to the cycles after the coming one, first first. -/
  pending : List CycleInput
  /-- How many free inputs have been drawn, so that each is a fresh one (R203). -/
  draws : Nat
  deriving DecidableEq, Repr

/-- The machine right after reset (R38, R230 to R232): `pc = 0x200`, memory as initialised, all else zero. The values
of `x`, `I` and `dt` are the spec's decision D18 (log entry 6). The first cycle's inputs are free (log entry 2). -/
def State.reset : State where
  x := Vector.replicate 16 0
  idx := 0
  pc := 0x200
  dt := 0
  mem := []
  stack := Vector.replicate 16 0
  sp := 0
  fb := Vector.replicate 64 0
  halted := false
  cause := 0
  finfo := 0
  keys := Config.freeKeys 0
  rnd := Config.freeRnd 0
  pending := []
  draws := 1

end Sys2Proof.Machine
end

