-- ==== Sys2Proof/Machine/Ops.lean ====
section
/-! DEFINITION. The named operations over memory, registers, call stack and framebuffer (spec/20_memory.md), taking a
fatal fault and leaving the halted state (spec/60_exceptions.md R191 to R199), instruction fetch, the inputs of a
cycle, and the host's operations Reset and LoadProgram (spec/70_reset_and_hazards.md). -/

namespace Sys2Proof.Machine

/-! ### Memory as data -/

/-- What an address that memory does not list reads as: the reset contents of R38 and R231, the glyph table at
`GLYPH_BASE` and 0x00 everywhere else. The region at and above 0x200 does not depend on `GLYPH_BASE`. -/
def Memory.initial (a : Nat) : Byte :=
  if Config.progBase ≤ a then 0
  else if Config.glyphBase.val ≤ a ∧ a < Config.glyphBase.val + Config.glyphTableBytes then
    Config.glyphRom.getD (a - Config.glyphBase.val) 0
  else 0

/-- The canonical form: addresses strictly rising, and no entry equal to what an unlisted address reads as. -/
abbrev Memory.wf (m : Memory) : Prop :=
  m.Pairwise (fun c d => c.1 < d.1) ∧ ∀ c ∈ m, c.2 ≠ Memory.initial c.1

/-- The byte listed for an address, if any. -/
def Memory.lookup : Memory → Nat → Option Byte
  | [], _ => none
  | (b, w) :: t, a => if a = b then some w else Memory.lookup t a

/-- `mem[a]`. -/
def Memory.read (m : Memory) (a : Nat) : Byte := (Memory.lookup m a).getD (Memory.initial a)

/-- List the byte `v` for the address `a`, in order. -/
def Memory.insert : Memory → Nat → Byte → Memory
  | [], a, v => [(a, v)]
  | (b, w) :: t, a, v =>
    if a < b then (a, v) :: (b, w) :: t
    else if a = b then (a, v) :: t
    else (b, w) :: Memory.insert t a v

/-- List nothing for the address `a`. -/
def Memory.erase : Memory → Nat → Memory
  | [], _ => []
  | (b, w) :: t, a => if a = b then Memory.erase t a else (b, w) :: Memory.erase t a

/-- `mem[a] <- v`, keeping the canonical form. -/
def Memory.write (m : Memory) (a : Nat) (v : Byte) : Memory :=
  if v = Memory.initial a then Memory.erase m a else Memory.insert m a v

/-! ### Registers -/

/-- Read `x[i]` (R7, R21). -/
def State.reg (s : State) (i : Reg) : Byte := s.x[i.toNat]'i.isLt

/-- `x[i] <- v` (R7, R21). -/
def State.setReg (s : State) (i : Reg) (v : Byte) : State := { s with x := s.x.set i.toNat v i.isLt }

/-- `I <- v` (R24). -/
def State.setIdx (s : State) (v : Word) : State := { s with idx := v }

/-- `dt <- v` (R28). -/
def State.setDt (s : State) (v : Byte) : State := { s with dt := v }

/-- `pc <- v` (R25). -/
def State.setPc (s : State) (v : Word) : State := { s with pc := v }

/-- `pc <- pc + k` (R26). -/
def State.advance (s : State) (k : Word) : State := { s with pc := s.pc + k }

/-- Write the bytes to the registers from `x[k]` upward (the commit of LD Vx,[I], R177). -/
def State.setRegs (s : State) (k : Nat) : List Byte → State
  | [] => s
  | b :: bs => State.setRegs (s.setReg (BitVec.ofNat 4 k) b) (k + 1) bs

/-! ### Memory -/

/-- Read `mem[a]` (R52 after its check). -/
def State.readByte (s : State) (a : Nat) : Byte := Memory.read s.mem a

/-- `mem[a] <- v`: what MemWrite does after its checks (R53), and a system write (R54). -/
def State.storeByte (s : State) (a : Nat) (v : Byte) : State := { s with mem := Memory.write s.mem a v }

/-- Store the bytes at `a` and upward, in ascending order (R57). -/
def State.storeBytes (s : State) (a : Nat) : List Byte → State
  | [] => s
  | b :: bs => State.storeBytes (s.storeByte a b) (a + 1) bs

/-- The precondition of MemRead (R52): a report if the address does not exist. -/
def memReadCheck (a : Nat) : Option FaultReport :=
  if 0xFFF < a then some ⟨.addressOutOfRange, BitVec.ofNat 16 a⟩ else none

/-- The precondition of MemWrite (R53). -/
def memWriteCheck (a : Nat) : Option FaultReport :=
  if a < Config.progBase then some ⟨.writeProtect, BitVec.ofNat 16 a⟩
  else if 0xFFF < a then some ⟨.addressOutOfRange, BitVec.ofNat 16 a⟩
  else none

/-! ### Call stack (R64) -/

/-- Read `stack[k]`. -/
def State.stackAt (s : State) (k : BitVec 4) : Word := s.stack[k.toNat]'k.isLt

/-- The precondition of Push: `sp = 15` raises StackOverflow with the value that was to be pushed. -/
def State.pushCheck (s : State) (a : Word) : Option FaultReport :=
  if s.sp.toNat = Config.maxCallDepth then some ⟨.stackOverflow, a⟩ else none

/-- Push: `sp <- sp + 1`, then `stack[sp] <- a`. -/
def State.push (s : State) (a : Word) : State :=
  { s with sp := s.sp + 1, stack := s.stack.set (s.sp + 1).toNat a (s.sp + 1).isLt }

/-- The precondition of Pop: `sp = 0` raises StackUnderflow(0). -/
def State.popCheck (s : State) : Option FaultReport :=
  if s.sp = 0 then some ⟨.stackUnderflow, 0⟩ else none

/-- Pop's effect: `sp <- sp - 1`; the entry keeps its value. -/
def State.dropTop (s : State) : State := { s with sp := s.sp - 1 }

/-- Peek: `stack[sp]`, the value Pop reads; by itself a host observation. -/
def State.peek (s : State) : Word := s.stackAt s.sp

/-! ### Framebuffer (R65) -/

/-- Row `py` of the grid, whose bit `px` is the cell `(px, py)`. -/
def State.fbRow (s : State) (py : Nat) : BitVec 64 := s.fb[py]?.getD 0

/-- FbGet. Outside the grid, where it is never called, it answers `false` (log entry 10). -/
def State.fbGet (s : State) (px py : Nat) : Bool := (s.fbRow py).getLsbD px

/-- FbSet. Outside the grid, where it is never called, it does nothing (log entry 10). -/
def State.fbSet (s : State) (px py : Nat) (b : Bool) : State :=
  let row := if b then s.fbRow py ||| BitVec.twoPow 64 px else s.fbRow py &&& ~~~(BitVec.twoPow 64 px)
  { s with fb := s.fb.setIfInBounds py row }

/-- FbClear: all cells off. -/
def State.fbClear (s : State) : State := { s with fb := Vector.replicate 64 0 }

/-! ### Taking a fatal fault and leaving the halted state -/

/-- The code of a fault (R194). -/
def Cause.code : Cause → BitVec 4
  | .illegalOpcode => 1
  | .fetchFault => 2
  | .writeProtect => 3
  | .addressOutOfRange => 4
  | .stackOverflow => 5
  | .stackUnderflow => 6
  | .drawOutOfRange => 7
  | .keyIndexOutOfRange => 8
  | .glyphDigitOutOfRange => 9
  | .registerIndexOutOfRange => 10

/-- `raise F(info)` (R191): `halted <- 1`, `cause <- code(F)`, `finfo <- info`, and nothing else changes; `pc` keeps
the address of the faulting instruction, so it serves as the saved program counter (R198). -/
def State.raise (s : State) (f : FaultReport) : State :=
  { s with halted := true, cause := f.cause.code, finfo := f.info }

/-- `Reset()` (R230): every piece of the hardware's state takes its reset value, the latch among it; this is the only
way out of the halted state (R193, R199). The inputs the host presents are not the hardware's and stay. -/
def State.resetCore (s : State) : State :=
  { State.reset with keys := s.keys, rnd := s.rnd, pending := s.pending, draws := s.draws }

/-- The first check that fails, in pseudocode order (R192). -/
def firstFault : List (Option FaultReport) → Option FaultReport
  | [] => none
  | some f :: _ => some f
  | none :: cs => firstFault cs

/-- The two passes of R192: if a check fails the first that fails is raised and nothing else happens; otherwise
the commit pass performs the writes. -/
def checked (s : State) (checks : List (Option FaultReport)) (commit : State) :
    Host.Outcome State Fault Refusal :=
  .next (match firstFault checks with
    | some f => s.raise f
    | none => commit)

/-! ### Instruction fetch (R55, R56) -/

/-- The checks of R56 pass: `pc` is even and lies in 0x200 to 0xFFF. -/
def fetchable (a : Word) : Bool :=
  decide (a.toNat % 2 = 0) && decide (0x200 ≤ a.toNat) && decide (a.toNat < 0x1000)

/-- The word at an address: two bytes, the first the high byte (R55). -/
def State.readWord (s : State) (a : Nat) : Word := s.readByte a ++ s.readByte (a + 1)

/-- FetchOpcode(pc) (R55, R56, R103). -/
def State.fetchOpcode (s : State) : Except FaultReport Word :=
  if fetchable s.pc then .ok (s.readWord s.pc.toNat) else .error ⟨.fetchFault, s.pc⟩

/-- Steps 2 to 4 of RunCycle (R100): fetch, decode, and the report if either raises. -/
def State.fetchDecode (s : State) : Except FaultReport Instr :=
  match s.fetchOpcode with
  | .error f => .error f
  | .ok op =>
    match decodeWord op with
    | .error _ => .error ⟨.illegalOpcode, op⟩
    | .ok i => .ok i

/-! ### The inputs of a cycle (R35, R102) -/

/-- After a cycle the core keeps neither input: the host presents the next ones, from `pending` while it lists any,
and free ones after that (log entry 1). -/
def State.nextInputs (s : State) : State :=
  match s.pending with
  | [] => { s with keys := Config.freeKeys s.draws, rnd := Config.freeRnd s.draws, draws := s.draws + 1 }
  | c :: cs => { s with keys := c.keys, rnd := c.rnd, pending := cs }

/-- The end of a cycle that ran: the inputs it sampled are gone. -/
def endCycle : Host.Outcome State Fault Refusal → Host.Outcome State Fault Refusal
  | .next s => .next s.nextInputs
  | .fault f => .fault f
  | .refused r => .refused r

/-! ### Program load (R233 to R235) -/

/-- The result of LoadProgram. -/
inductive LoadResult where
  /-- The program was copied. -/
  | ok
  /-- `0x200 + len > 4096`: a recoverable result, no fault (R209, R234). -/
  | programTooLarge
  deriving DecidableEq, Repr

/-- LoadProgram: the length test precedes the copy, so a failure writes nothing (R234); a success writes the buffer at
0x200 by system writes and touches nothing else (R233). Accepted at any time between cycles, also when halted (R235). -/
def State.loadProgram (s : State) (bytes : List Byte) : LoadResult × State :=
  if Config.memSize < Config.progBase + bytes.length then (.programTooLarge, s)
  else (.ok, s.storeBytes Config.progBase bytes)

/-- Place two bytes where the coming cycle fetches: `pc` if it is fetchable, else 0x200, which `pc` then takes; a
halted core is released, since it would fetch nothing. It stands for a program load (log entry 12). -/
def State.placeWord (s : State) (w : Word) : State :=
  let pc := if fetchable s.pc then s.pc else 0x200
  State.storeBytes { s with pc := pc, halted := false, cause := if s.halted then 0 else s.cause,
                            finfo := if s.halted then 0 else s.finfo } pc.toNat (wordBytes w)

end Sys2Proof.Machine
end

