-- ==== Sys2Proof/Machine/Operands.lean ====
section
/-! DEFINITION. Every operand form of the instruction set: zero-extended immediates (R83), the effective addresses
`I + k` (R61), the register block (R176, R177), the glyph address (R62), BCD digits (R178), the sprite's rows and
cells (R160), and the keypad scan (R171). -/

namespace Sys2Proof.Machine

/-- `zext_16(NNN)` (R83). -/
def zextAddr (nnn : Addr12) : Word := nnn.setWidth 16

/-- `zext_16` of an 8-bit value (R6). -/
def zextByte (b : Byte) : Word := b.setWidth 16

/-- The effective address `I + k`, over the integers and not wrapped to 16 bits (R61). -/
def State.effAddr (s : State) (k : Nat) : Nat := s.idx.toNat + k

/-- The `n` effective addresses `I` to `I + n - 1`, ascending. -/
def State.effAddrs (s : State) (n : Nat) : List Nat := (List.range n).map s.effAddr

/-- The bytes at `I` to `I + n - 1`. -/
def State.readBlock (s : State) (n : Nat) : List Byte := (s.effAddrs n).map s.readByte

/-- The registers `x[0]` to `x[X]`: the source operand of LD [I],Vx (R176). -/
def State.regBlock (s : State) (x : Reg) : List Byte :=
  (List.range (x.toNat + 1)).map (fun k => s.reg (BitVec.ofNat 4 k))

/-- `GlyphAddr(d) = GLYPH_BASE + 5*d` (R62). -/
def glyphAddr (d : Nat) : Word := BitVec.ofNat 16 (Config.glyphBase.val + 5 * d)

/-- The decimal digits of an 8-bit value, hundreds first (R175, R178). -/
def bcdDigits (v : Byte) : List Byte :=
  [BitVec.ofNat 8 (v.toNat / 100), BitVec.ofNat 8 (v.toNat / 10 % 10), BitVec.ofNat 8 (v.toNat % 10)]

/-- The lowest index `k` with `keys[k] = 1`, if any (R171). -/
def lowestKey (keys : BitVec 16) : Option Nat := (List.range Config.nKeys).find? (fun k => keys.getLsbD k)

/-- The cells that the set bits of one sprite row target: bit 7 is column 0, at `vx` (R160). -/
def rowCells (vx py : Nat) (row : Byte) : List (Nat × Nat) :=
  ((List.range 8).filter (fun c => row.getLsbD (7 - c))).map (fun c => (vx + c, py))

/-- The cells that the set bits of a sprite target, row by row from the origin `(vx, vy)` (R160). -/
def spriteCells (vx vy : Nat) : List Byte → List (Nat × Nat)
  | [] => []
  | row :: rows => rowCells vx vy row ++ spriteCells vx (vy + 1) rows

/-- A coordinate pair lies outside the grid (R162). -/
def outsideGrid (c : Nat × Nat) : Bool := decide (63 < c.1) || decide (63 < c.2)

end Sys2Proof.Machine
end

