-- ==== Sys2Proof/Machine/Flags.lean ====
section
/-! DEFINITION. Every flag the spec computes and the arithmetic it comes with (spec/10_state.md R39, spec/44_alu.md
R140 to R150): the exact integer result is computed first, narrowed by an explicit `mod 256`, and the flag is a fact
about the exact result. The only flag register is `x[15]` (R22). -/

namespace Sys2Proof.Machine

/-- The byte a flag write stores: 0x00 or 0x01 (R22). -/
def flagByte (b : Bool) : Byte := if b then 1 else 0

/-- `x[15] <- 1 if b else 0`. -/
def State.setFlag (s : State) (b : Bool) : State := s.setReg flagReg (flagByte b)

/-- `(a + b) mod 256` (R131, R145). -/
def addBytes (a b : Byte) : Byte := BitVec.ofNat 8 (a.toNat + b.toNat)

/-- The carry: the sum exceeded 255 (R145). -/
def carryOut (a b : Byte) : Bool := decide (255 < a.toNat + b.toNat)

/-- The exact difference `a - b`, -255 to 255 (R146). -/
def exactDiff (a b : Byte) : Int := (a.toNat : Int) - (b.toNat : Int)

/-- `(a - b) mod 256`, two's-complement truncation (R146, R148). -/
def subBytes (a b : Byte) : Byte := BitVec.ofInt 8 (exactDiff a b)

/-- The borrow: the exact difference is negative (R146, R148). -/
def borrowOut (a b : Byte) : Bool := decide (exactDiff a b < 0)

/-- `a >> 1`, 0 enters at bit 7 (R147). -/
def shiftRight (a : Byte) : Byte := a >>> 1

/-- The input's least-significant bit (R147). -/
def lowBit (a : Byte) : Bool := a.getLsbD 0

/-- `(a << 1) mod 256`, 0 enters at bit 0 (R149). -/
def shiftLeft (a : Byte) : Byte := a <<< 1

/-- The input's bit 7 (R149). -/
def highBit (a : Byte) : Bool := a.getLsbD 7

end Sys2Proof.Machine
end

