-- ==== Sys2Proof/Machine/Alu.lean ====
section
/-! DEFINITION. Family 0x8, register-register ALU (spec/44_alu.md R140 to R150). Operands are read from the state
before the instruction; of the two writes the one that stands outermost is the last (R140): the flag for ADD, SUB and
SUBN, the shifted value for SHR and SHL. -/

namespace Sys2Proof.Machine

/-- Result first, flag second (R140): with `X = 15` the flag remains. -/
def State.resultThenFlag (s : State) (x : Reg) (v : Byte) (f : Bool) : State := (s.setReg x v).setFlag f

/-- Flag first, result second (R140): with `X = 15` the result remains. -/
def State.flagThenResult (s : State) (x : Reg) (v : Byte) (f : Bool) : State := (s.setFlag f).setReg x v

/-- LD Vx,Vy (R141). -/
def execLdReg (x y : Reg) (s : State) : Host.Outcome State Fault Refusal :=
  .next ((s.setReg x (s.reg y)).advance 2)

/-- OR Vx,Vy (R142). -/
def execOrReg (x y : Reg) (s : State) : Host.Outcome State Fault Refusal :=
  .next ((s.setReg x (s.reg x ||| s.reg y)).advance 2)

/-- AND Vx,Vy (R143). -/
def execAndReg (x y : Reg) (s : State) : Host.Outcome State Fault Refusal :=
  .next ((s.setReg x (s.reg x &&& s.reg y)).advance 2)

/-- XOR Vx,Vy (R144). -/
def execXorReg (x y : Reg) (s : State) : Host.Outcome State Fault Refusal :=
  .next ((s.setReg x (s.reg x ^^^ s.reg y)).advance 2)

/-- ADD Vx,Vy (R145). -/
def execAddReg (x y : Reg) (s : State) : Host.Outcome State Fault Refusal :=
  .next ((s.resultThenFlag x (addBytes (s.reg x) (s.reg y)) (carryOut (s.reg x) (s.reg y))).advance 2)

/-- SUB Vx,Vy (R146): X - Y, flag 1 on borrow. -/
def execSubReg (x y : Reg) (s : State) : Host.Outcome State Fault Refusal :=
  .next ((s.resultThenFlag x (subBytes (s.reg x) (s.reg y)) (borrowOut (s.reg x) (s.reg y))).advance 2)

/-- SHR Vx (R147). -/
def execShr (x : Reg) (s : State) : Host.Outcome State Fault Refusal :=
  .next ((s.flagThenResult x (shiftRight (s.reg x)) (lowBit (s.reg x))).advance 2)

/-- SUBN Vx,Vy (R148): Y - X, flag 1 on borrow. -/
def execSubnReg (x y : Reg) (s : State) : Host.Outcome State Fault Refusal :=
  .next ((s.resultThenFlag x (subBytes (s.reg y) (s.reg x)) (borrowOut (s.reg y) (s.reg x))).advance 2)

/-- SHL Vx (R149). -/
def execShl (x : Reg) (s : State) : Host.Outcome State Fault Refusal :=
  .next ((s.flagThenResult x (shiftLeft (s.reg x)) (highBit (s.reg x))).advance 2)

end Sys2Proof.Machine
end

