-- ==== Sys2Proof/Machine/Draw.lean ====
section
/-! DEFINITION. Family 0xD, sprite draw with collision detection (spec/45_draw.md R160 to R164). -/

namespace Sys2Proof.Machine

/-- The coordinate check of phase 2 (R162): only cells of set bits are tested; the report is the origin. -/
def gridCheck (vx vy : Byte) (cells : List (Nat × Nat)) : Option FaultReport :=
  if cells.any outsideGrid then some ⟨.drawOutOfRange, vx ++ vy⟩ else none

/-- Toggle one cell; a cell that goes from on to off is a collision and sets `x[15]` (R160, R161). -/
def State.toggleCell (s : State) (c : Nat × Nat) : State :=
  (if s.fbGet c.1 c.2 then s.setFlag true else s).fbSet c.1 c.2 (!s.fbGet c.1 c.2)

/-- Phase 3 of R160: the flag is reset, then every cell is toggled in order. -/
def State.drawCells (s : State) (cells : List (Nat × Nat)) : State :=
  cells.foldl State.toggleCell (s.setFlag false)

/-- The cells DRW draws, from the operands as they were before the instruction (R164). -/
def State.drawTargets (s : State) (x y : Reg) (n : BitVec 4) : List (Nat × Nat) :=
  spriteCells (s.reg x).toNat (s.reg y).toNat (s.readBlock n.toNat)

/-- DRW Vx,Vy,n (R160): the addresses first, then the coordinates, then the drawing. -/
def execDrw (x y : Reg) (n : BitVec 4) (s : State) : Host.Outcome State Fault Refusal :=
  checked s ((s.effAddrs n.toNat).map memReadCheck ++ [gridCheck (s.reg x) (s.reg y) (s.drawTargets x y n)])
    ((s.drawCells (s.drawTargets x y n)).advance 2)

end Sys2Proof.Machine
end

