-- ==== Sys2Proof/Machine/Flow.lean ====
section
/-! DEFINITION. Family 0x0 and control transfer (spec/41_flow.md R110 to R115): CLS, RET, JP, CALL, JP V0. In every
meaning `s.pc` is the address of the instruction itself (R25). No target is checked at the transfer (R115). -/

namespace Sys2Proof.Machine

/-- CLS (R110). -/
def execCls (s : State) : Host.Outcome State Fault Refusal := .next (s.fbClear.advance 2)

/-- RET (R111): the popped value is the address of the CALL; the +2 is added here. -/
def execRet (s : State) : Host.Outcome State Fault Refusal :=
  checked s [s.popCheck] (s.dropTop.setPc (s.peek + 2))

/-- JP nnn (R112). -/
def execJp (nnn : Addr12) (s : State) : Host.Outcome State Fault Refusal := .next (s.setPc (zextAddr nnn))

/-- CALL nnn (R113): pushes its own address. -/
def execCall (nnn : Addr12) (s : State) : Host.Outcome State Fault Refusal :=
  checked s [s.pushCheck s.pc] ((s.push s.pc).setPc (zextAddr nnn))

/-- JP V0,nnn (R114): always register 0; the sum is not reduced to 12 bits. -/
def execJpV0 (nnn : Addr12) (s : State) : Host.Outcome State Fault Refusal :=
  .next (s.setPc (zextAddr nnn + zextByte (s.reg 0)))

end Sys2Proof.Machine
end

