-- ==== Sys2Proof/Machine/Immediate.lean ====
section
/-! DEFINITION. The immediate instructions (spec/43_immediate.md R130 to R133). None writes `x[15]` as a side effect. -/

namespace Sys2Proof.Machine

/-- LD Vx,kk (R130). -/
def execLdImm (x : Reg) (kk : Byte) (s : State) : Host.Outcome State Fault Refusal :=
  .next ((s.setReg x kk).advance 2)

/-- ADD Vx,kk (R131): wraps, no flag. -/
def execAddImm (x : Reg) (kk : Byte) (s : State) : Host.Outcome State Fault Refusal :=
  .next ((s.setReg x (addBytes (s.reg x) kk)).advance 2)

/-- LD I,nnn (R132). -/
def execLdI (nnn : Addr12) (s : State) : Host.Outcome State Fault Refusal :=
  .next ((s.setIdx (zextAddr nnn)).advance 2)

/-- RND Vx,kk (R133): the cycle's random byte, masked. -/
def execRnd (x : Reg) (kk : Byte) (s : State) : Host.Outcome State Fault Refusal :=
  .next ((s.setReg x (s.rnd &&& kk)).advance 2)

end Sys2Proof.Machine
end

