-- ==== Sys2Proof/Machine/Skip.lean ====
section
/-! DEFINITION. The conditional skips (spec/42_skip.md R120 to R126). A taken skip passes over one instruction, two
bytes, which is never examined. -/

namespace Sys2Proof.Machine

/-- The four register and immediate skips: `pc + 4` if taken, else `pc + 2`. -/
def State.skipIf (s : State) (taken : Bool) : State := s.advance (if taken then 4 else 2)

/-- The two key skips: `pc + 4` if the condition holds, else nothing at all (R124, R125). -/
def State.skipOrStay (s : State) (taken : Bool) : State := if taken then s.advance 4 else s

/-- The key index must be one of the 16 keys (R124, R125). -/
def keyCheck (k : Byte) : Option FaultReport :=
  if 15 < k.toNat then some ⟨.keyIndexOutOfRange, zextByte k⟩ else none

/-- `keys[k]` for a register's value `k` (R35). -/
def State.keyDown (s : State) (k : Byte) : Bool := s.keys.getLsbD k.toNat

/-- SE Vx,kk (R120). -/
def execSeImm (x : Reg) (kk : Byte) (s : State) : Host.Outcome State Fault Refusal :=
  .next (s.skipIf (s.reg x == kk))

/-- SNE Vx,kk (R121). -/
def execSneImm (x : Reg) (kk : Byte) (s : State) : Host.Outcome State Fault Refusal :=
  .next (s.skipIf (s.reg x != kk))

/-- SE Vx,Vy (R122). -/
def execSeReg (x y : Reg) (s : State) : Host.Outcome State Fault Refusal :=
  .next (s.skipIf (s.reg x == s.reg y))

/-- SNE Vx,Vy (R123). -/
def execSneReg (x y : Reg) (s : State) : Host.Outcome State Fault Refusal :=
  .next (s.skipIf (s.reg x != s.reg y))

/-- SKP Vx (R124). -/
def execSkp (x : Reg) (s : State) : Host.Outcome State Fault Refusal :=
  checked s [keyCheck (s.reg x)] (s.skipOrStay (s.keyDown (s.reg x)))

/-- SKNP Vx (R125). -/
def execSknp (x : Reg) (s : State) : Host.Outcome State Fault Refusal :=
  checked s [keyCheck (s.reg x)] (s.skipOrStay (!s.keyDown (s.reg x)))

end Sys2Proof.Machine
end

