-- ==== Sys2Proof/Machine/TimerIndexBlock.lean ====
section
/-! DEFINITION. Family 0xF (spec/46_timer_index_block.md R170 to R178): delay timer, wait-for-key, index arithmetic,
glyph address, BCD, register block store and load. No instruction of the family writes `x[15]` as a flag. -/

namespace Sys2Proof.Machine

/-- The glyph digit must be one of the 16 digits (R174). -/
def digitCheck (d : Byte) : Option FaultReport :=
  if 15 < d.toNat then some ⟨.glyphDigitOutOfRange, zextByte d⟩ else none

/-- `I <- (I + X + 1) mod 2^16` (R176, R177). -/
def State.passBlock (s : State) (x : Reg) : State := s.setIdx (BitVec.ofNat 16 (s.idx.toNat + x.toNat + 1))

/-- LD Vx,DT (R170). -/
def execLdVxDt (x : Reg) (s : State) : Host.Outcome State Fault Refusal :=
  .next ((s.setReg x s.dt).advance 2)

/-- LD Vx,K (R171): the lowest pressed key, or nothing at all. -/
def execLdVxK (x : Reg) (s : State) : Host.Outcome State Fault Refusal :=
  .next (match lowestKey s.keys with
    | some k => (s.setReg x (BitVec.ofNat 8 k)).advance 2
    | none => s)

/-- LD DT,Vx (R172). -/
def execLdDtVx (x : Reg) (s : State) : Host.Outcome State Fault Refusal :=
  .next ((s.setDt (s.reg x)).advance 2)

/-- ADD I,Vx (R173): 16-bit wraparound, no flag. -/
def execAddI (x : Reg) (s : State) : Host.Outcome State Fault Refusal :=
  .next ((s.setIdx (s.idx + zextByte (s.reg x))).advance 2)

/-- LD F,Vx (R174). -/
def execLdF (x : Reg) (s : State) : Host.Outcome State Fault Refusal :=
  checked s [digitCheck (s.reg x)] ((s.setIdx (glyphAddr (s.reg x).toNat)).advance 2)

/-- LD B,Vx (R175): all three addresses are checked before any byte is written. -/
def execLdB (x : Reg) (s : State) : Host.Outcome State Fault Refusal :=
  checked s ((s.effAddrs 3).map memWriteCheck)
    ((s.storeBytes s.idx.toNat (bcdDigits (s.reg x))).advance 2)

/-- LD [I],Vx (R176). -/
def execStoreRegs (x : Reg) (s : State) : Host.Outcome State Fault Refusal :=
  checked s ((s.effAddrs (x.toNat + 1)).map memWriteCheck)
    (((s.storeBytes s.idx.toNat (s.regBlock x)).passBlock x).advance 2)

/-- LD Vx,[I] (R177). -/
def execLoadRegs (x : Reg) (s : State) : Host.Outcome State Fault Refusal :=
  checked s ((s.effAddrs (x.toNat + 1)).map memReadCheck)
    (((s.setRegs 0 (s.readBlock (x.toNat + 1))).passBlock x).advance 2)

end Sys2Proof.Machine
end

