-- ==== Sys2Proof/Machine/Step.lean ====
section
/-! DEFINITION. One step is one run cycle (spec/40_cycle.md R100): halted check, fetch, decode, illegal check, execute.
Its two inputs are the ones the state presents (R35; log entry 1); everything it does is an operation of
Machine/Ops.lean or a meaning. -/

namespace Sys2Proof.Machine

/-- `RunCycle(keys, rnd)` with the inputs `s` presents. A halted core does nothing and consumes no input (R101); a
fault at fetch or decode is raised (R56, R90); otherwise the instruction executes to completion (R106). -/
def step (s : State) : Host.Outcome State Fault Refusal :=
  if s.halted then .next s
  else
    match s.fetchDecode with
    | .error f => endCycle (.next (s.raise f))
    | .ok i => endCycle (exec i s)

/-- The state with the instruction of a table word stored where the coming cycle fetches, high byte first. Bits at
and above `nbits` are 0. -/
def State.withFetchWord (s : State) (nbits w : Nat) : State :=
  s.placeWord (BitVec.ofNat 16 (w % 2 ^ nbits))

end Sys2Proof.Machine
end

