-- ==== Sys2Proof/Machine/Boundary.lean ====
section
/-! DEFINITION. The transaction-level interface of the block as the host sees it (spec/10_state.md R32, R36,
spec/40_cycle.md R100, spec/60_exceptions.md R204): RunCycle with its inputs and its result, and the framebuffer
output. Reset and LoadProgram are in Machine/Ops.lean. -/

namespace Sys2Proof.Machine

/-- What RunCycle returns (R100). -/
inductive RunResult where
  /-- The instruction ran to completion (R106). -/
  | completed
  /-- This cycle raised a fatal fault with this code (R191). -/
  | faulted (code : BitVec 4)
  /-- The core was halted before the cycle, with this cause (R101). -/
  | halted (cause : BitVec 4)
  deriving DecidableEq, Repr

/-- The result of a cycle, from the state before it and the state after it. -/
def cycleResult (before after : State) : RunResult :=
  if before.halted then .halted before.cause
  else if after.halted then .faulted after.cause
  else .completed

/-- `RunCycle(keys, rnd)` with inputs the host names (R35): the state after and the result. -/
def State.runCycle (s : State) (input : CycleInput) : Option (RunResult × State) :=
  match step { s with keys := input.keys, rnd := input.rnd } with
  | .next t => some (cycleResult s t, t)
  | .fault _ => none
  | .refused _ => none

/-- The packed value of a cell at the framebuffer output (R32): an opaque alpha byte and a 0/1 luminance byte. The
order of the two in a packed word is the host interface's (log entry 5). -/
structure Pixel where
  alpha : Byte
  luminance : Byte
  deriving DecidableEq, Repr

/-- The host's read of the cell `(px, py)`: a pure function of the bit (R32, R204). -/
def State.pixel (s : State) (px py : Nat) : Pixel where
  alpha := Config.opaqueAlpha
  luminance := if s.fbGet px py then 1 else 0

end Sys2Proof.Machine
end

