-- ==== Sys2Proof/Safety.lean ====
section
/-! DEFINITION. The terms claims are written in: what a step leaves unchanged (frames), a faulted state (R191, R192),
what a sprite covers (R160), and the invariants of the machine. -/

namespace Sys2Proof.Machine

/-! ### Frames -/

/-- The parts of the state a frame speaks of. -/
inductive Part where
  /-- `x[0]` to `x[15]`. -/
  | regs
  /-- `I`. -/
  | idx
  /-- `pc`. -/
  | pc
  /-- `dt`. -/
  | dt
  /-- Every byte of memory. -/
  | mem
  /-- `sp` and all 16 entries. -/
  | stack
  /-- Every cell of the framebuffer. -/
  | fb
  /-- `halted`, `cause`, `finfo`. -/
  | latch
  /-- The host's inputs: `keys`, `rnd`, `pending`, `draws`. -/
  | inputs
  deriving DecidableEq, Repr

/-- The part reads the same before (`s`) and after (`t`). -/
def Kept (s t : State) : Part → Prop
  | .regs => ∀ i, t.reg i = s.reg i
  | .idx => t.idx = s.idx
  | .pc => t.pc = s.pc
  | .dt => t.dt = s.dt
  | .mem => ∀ a, t.readByte a = s.readByte a
  | .stack => t.sp = s.sp ∧ ∀ k, t.stackAt k = s.stackAt k
  | .fb => ∀ px py, t.fbGet px py = s.fbGet px py
  | .latch => t.halted = s.halted ∧ t.cause = s.cause ∧ t.finfo = s.finfo
  | .inputs => t.keys = s.keys ∧ t.rnd = s.rnd ∧ t.pending = s.pending ∧ t.draws = s.draws

/-- Every part but the named ones reads the same. -/
def KeptExcept (s t : State) (changed : List Part) : Prop := ∀ p, p ∉ changed → Kept s t p

/-- `t` is `s` after a fatal fault: the latch holds the code and the information, and nothing else changed
(R191, R192). -/
def Faulted (s t : State) (code : BitVec 4) (info : Word) : Prop :=
  t.halted = true ∧ t.cause = code ∧ t.finfo = info ∧ KeptExcept s t [.latch]

end Sys2Proof.Machine

namespace Sys2Proof

open Machine

/-! ### Faults by instruction (R194) -/

/-- The faults an instruction can raise of its own, by the table of R194. -/
def Instr.mayRaise : Instr → List Cause
  | .call _ => [.stackOverflow]
  | .ret => [.stackUnderflow]
  | .skp _ | .sknp _ => [.keyIndexOutOfRange]
  | .ldF _ => [.glyphDigitOutOfRange]
  | .drw _ _ _ => [.addressOutOfRange, .drawOutOfRange]
  | .ldB _ | .storeRegs _ => [.writeProtect, .addressOutOfRange]
  | .loadRegs _ => [.addressOutOfRange]
  | .cls | .jp _ | .seImm _ _ | .sneImm _ _ | .seReg _ _ | .ldImm _ _ | .addImm _ _ | .ldReg _ _ | .orReg _ _
  | .andReg _ _ | .xorReg _ _ | .addReg _ _ | .subReg _ _ | .shr _ | .subnReg _ _ | .shl _ | .sneReg _ _
  | .ldI _ | .jpV0 _ | .rnd _ _ | .ldVxDt _ | .ldVxK _ | .ldDtVx _ | .addI _ => []

/-! ### What an instruction may change (R23, R24, R28, R29, R31, R59, R105) -/

/-- The registers an instruction may write, by the write rows of R23: its destination, the block `x[0]` to `x[X]`, and
`x[15]` as a flag. -/
def Instr.mayWriteReg : Instr → Reg → Bool
  | .ldImm x _, r | .addImm x _, r | .rnd x _, r | .ldReg x _, r | .orReg x _, r | .andReg x _, r
  | .xorReg x _, r | .ldVxDt x, r | .ldVxK x, r => r == x
  | .addReg x _, r | .subReg x _, r | .subnReg x _, r | .shr x, r | .shl x, r => r == x || r == flagReg
  | .drw _ _ _, r => r == flagReg
  | .loadRegs x, r => decide (r.toNat ≤ x.toNat)
  | .cls, _ | .ret, _ | .jp _, _ | .call _, _ | .jpV0 _, _ | .seImm _ _, _ | .sneImm _ _, _ | .seReg _ _, _
  | .sneReg _ _, _ | .skp _, _ | .sknp _, _ | .ldI _, _ | .addI _, _ | .ldF _, _ | .ldDtVx _, _ | .ldB _, _
  | .storeRegs _, _ => false

/-- The parts of the state an instruction may change when it raises no fault: `I` (R24), `dt` only by LD DT,Vx (R28),
the call stack only by CALL and RET (R29), the framebuffer only by CLS and DRW (R31), memory only by LD B,Vx and
LD [I],Vx (R59), registers (R23), and `pc` (R105). The latch is written only by `raise` (R34). -/
def Instr.mayChange : Instr → Part → Bool
  | _, .pc => true
  | _, .inputs | _, .latch => false
  | i, .regs => match i with
    | .ldImm _ _ | .addImm _ _ | .rnd _ _ | .ldReg _ _ | .orReg _ _ | .andReg _ _ | .xorReg _ _ | .addReg _ _
    | .subReg _ _ | .subnReg _ _ | .shr _ | .shl _ | .drw _ _ _ | .ldVxDt _ | .ldVxK _ | .loadRegs _ => true
    | _ => false
  | i, .idx => match i with
    | .ldI _ | .addI _ | .ldF _ | .storeRegs _ | .loadRegs _ => true
    | _ => false
  | i, .dt => match i with
    | .ldDtVx _ => true
    | _ => false
  | i, .mem => match i with
    | .ldB _ | .storeRegs _ => true
    | _ => false
  | i, .stack => match i with
    | .call _ | .ret => true
    | _ => false
  | i, .fb => match i with
    | .cls | .drw _ _ _ => true
    | _ => false

/-- The set of R108 whose `pc` does not simply advance by 2: "{jump, call, return, jump-with-offset, skip*}". -/
def Instr.transfersOrSkips : Instr → Bool
  | .jp _ | .call _ | .ret | .jpV0 _ | .seImm _ _ | .sneImm _ _ | .seReg _ _ | .sneReg _ _ | .skp _ | .sknp _ => true
  | .cls | .ldImm _ _ | .addImm _ _ | .ldReg _ _ | .orReg _ _ | .andReg _ _ | .xorReg _ _ | .addReg _ _
  | .subReg _ _ | .shr _ | .subnReg _ _ | .shl _ | .ldI _ | .rnd _ _ | .drw _ _ _ | .ldVxDt _ | .ldVxK _
  | .ldDtVx _ | .addI _ | .ldF _ | .ldB _ | .storeRegs _ | .loadRegs _ => false

/-- The instructions that read the keypad snapshot (R102). -/
def Instr.readsKeys : Instr → Bool
  | .skp _ | .sknp _ | .ldVxK _ => true
  | _ => false

/-- The instruction that reads the random byte (R102). -/
def Instr.readsRnd : Instr → Bool
  | .rnd _ _ => true
  | _ => false

end Sys2Proof

namespace Sys2Proof.Machine

/-- The same state with other inputs presented to the coming cycle. -/
def State.withInputs (s : State) (keys : BitVec 16) (rnd : Byte) : State := { s with keys := keys, rnd := rnd }

/-! ### The sprite (R160) -/

/-- A set bit of the sprite `n` rows high at `I`, drawn at the origin `(vx, vy)`, targets the cell `(px, py)`: row
`py - vy` is the byte at `I + (py - vy)`, and bit 7 of it is the leftmost column. -/
def State.spriteHits (s : State) (vx vy n px py : Nat) : Bool :=
  decide (vx ≤ px ∧ px < vx + 8 ∧ vy ≤ py ∧ py < vy + n) &&
    (s.readByte (s.idx.toNat + (py - vy))).getLsbD (7 - (px - vx))

/-- The sprite of DRW Vx,Vy,n in the state before it. -/
def State.drawHits (s : State) (x y : Reg) (n : BitVec 4) (px py : Nat) : Bool :=
  s.spriteHits (s.reg x).toNat (s.reg y).toNat n.toNat px py

/-! ### Fault information (R195) -/

/-- What `finfo` holds after a fault of this cause in the cycle that starts in `s`: the word at `pc`, `pc` itself, the
first offending address modulo 2^16, the operand registers of the word at `pc` (R195). Of consecutive addresses from
`I` upward the first below 0x200 is `I`, and the first above 0xFFF is `I` or 0x1000. -/
def State.faultInfo (s : State) : Cause → Word
  | .illegalOpcode => s.readWord s.pc.toNat
  | .fetchFault => s.pc
  | .writeProtect => s.idx
  | .addressOutOfRange => if 0xFFF < s.idx.toNat then s.idx else 0x1000
  | .stackOverflow => s.pc
  | .stackUnderflow => 0
  | .drawOutOfRange => s.reg (Op.x (s.readWord s.pc.toNat)) ++ s.reg (Op.y (s.readWord s.pc.toNat))
  | .keyIndexOutOfRange => (s.reg (Op.x (s.readWord s.pc.toNat))).setWidth 16
  | .glyphDigitOutOfRange => (s.reg (Op.x (s.readWord s.pc.toNat))).setWidth 16
  | .registerIndexOutOfRange => 0

/-! ### Invariants -/

/-- Memory is canonical, lists only bytes a program may write (R51), and the latch is consistent: code 0 and
information 0 when not halted, a raised code 1 to 9 when halted (R34, R40, R208). -/
structure MachineInv (s : State) : Prop where
  memWf : Memory.wf s.mem
  memRegion : ∀ c ∈ s.mem, 0x200 ≤ c.1 ∧ c.1 < 0x1000
  running : s.halted = false → s.cause = 0 ∧ s.finfo = 0
  stopped : s.halted = true → 1 ≤ s.cause.toNat ∧ s.cause.toNat ≤ 9

/-- `pc` never passes 0x10FE, every live call-stack entry is the fetchable address of a CALL, and entry 0 is never
written (R26, R30). -/
structure ControlInv (s : State) : Prop where
  pcBound : s.pc.toNat ≤ 0x10FE
  liveEntries : ∀ k : BitVec 4, 1 ≤ k.toNat → k.toNat ≤ s.sp.toNat → fetchable (s.stackAt k) = true
  entryZero : s.stackAt 0 = 0

/-- A safe run meets no fatal fault: the core is not halted. -/
def Safe (s : State) : Prop := s.halted = false

end Sys2Proof.Machine
end

