-- ==== Sys2Proof/Certificates/Slice0/Obligations.lean ====
section
/-! DEFINITION. The statements for the provers. Each says, in terms of `exec`, `step` and the observations of the state
(`reg`, `readByte`, `stackAt`, `fbGet`), what a rule of the spec says; `KeptExcept s t parts` is its frame. -/

open Sys2Proof Sys2Proof.Machine

/-! ### Decode and encode -/

/-- Words written out bit by bit from 30_encoding.md decode to the instruction they stand for (95_test_vectors.md V30).
A sanity statement. -/
def Obligations.GoldenWordsDecode : Prop :=
  decodeWord 0x00E0 = .ok .cls ∧ decodeWord 0x00EE = .ok .ret ∧ decodeWord 0x1ABC = .ok (.jp 0xABC) ∧
  decodeWord 0x3A7F = .ok (.seImm 0xA 0x7F) ∧ decodeWord 0x512F = .ok (.seReg 1 2) ∧
  decodeWord 0x8AB5 = .ok (.subReg 0xA 0xB) ∧ decodeWord 0x81F6 = .ok (.shr 1) ∧
  decodeWord 0xA0FF = .ok (.ldI 0x0FF) ∧ decodeWord 0xDAB5 = .ok (.drw 0xA 0xB 5) ∧
  decodeWord 0xEAA1 = .ok (.sknp 0xA) ∧ decodeWord 0xFA33 = .ok (.ldB 0xA) ∧
  decodeWord 0x0000 = .error (.illegalOpcode 0x0000) ∧ decodeWord 0xFA18 = .error (.illegalOpcode 0xFA18)

/-- Every instruction decodes from its own encoding, operands and all, and the bytes after it are handed back
(R80, R82, R92). -/
def Obligations.DecodeEncodeRoundTrip : Prop :=
  ∀ i : Instr, i.wellFormed = true ∧ decodeWord (encode i) = .ok i ∧
    ∀ rest : List Byte, decodeBytes (encodeBytes i ++ rest) = .ok (i, rest)

/-- A recognised word is the encoding of what it decodes to, but for the bits decode ignores, which the canonical
encoding holds at 0 (R86, R89, R93). -/
def Obligations.EncodeDecodeCanonical : Prop :=
  ∀ (op : Word) (i : Instr), decodeWord op = .ok i → encode i = canonicalWord op

/-- Decode recognises exactly the words of the opcode table, names every other word, and no word is in two rows
(R84 to R88, R90, R92). -/
def Obligations.DecodeAcceptsExactlyTheTable : Prop :=
  ∀ op : Word,
    ((∃ i, decodeWord op = .ok i) ↔ ∃ r ∈ opcodeTable, op &&& r.mask = r.pattern) ∧
    (∀ e, decodeWord op = .error e → e = .illegalOpcode op) ∧
    ∀ r ∈ opcodeTable, ∀ r' ∈ opcodeTable, op &&& r.mask = r.pattern → op &&& r'.mask = r'.pattern → r = r'

/-- The second level of the four two-level families: family 0 compares the whole word (R85), family 8 the low nibble
(R86), families E and F the low byte (R87, R88); everything else in them is unrecognised. -/
def Obligations.SecondLevelDecode : Prop :=
  (∀ op : Word, Op.fam op = 0x0 → decodeWord op =
    if op = 0x00E0 then .ok .cls else if op = 0x00EE then .ok .ret else .error (.illegalOpcode op)) ∧
  (∀ (x y : Reg) (n : BitVec 4), decodeWord (0x8#4 ++ x ++ y ++ n) =
    if n = 0x0 then .ok (.ldReg x y) else if n = 0x1 then .ok (.orReg x y) else if n = 0x2 then .ok (.andReg x y)
    else if n = 0x3 then .ok (.xorReg x y) else if n = 0x4 then .ok (.addReg x y)
    else if n = 0x5 then .ok (.subReg x y) else if n = 0x6 then .ok (.shr x)
    else if n = 0x7 then .ok (.subnReg x y) else if n = 0xE then .ok (.shl x)
    else .error (.illegalOpcode (0x8#4 ++ x ++ y ++ n))) ∧
  (∀ (x : Reg) (kk : Byte), decodeWord (0xE#4 ++ x ++ kk) =
    if kk = 0x9E then .ok (.skp x) else if kk = 0xA1 then .ok (.sknp x)
    else .error (.illegalOpcode (0xE#4 ++ x ++ kk))) ∧
  (∀ (x : Reg) (kk : Byte), decodeWord (0xF#4 ++ x ++ kk) =
    if kk = 0x07 then .ok (.ldVxDt x) else if kk = 0x0A then .ok (.ldVxK x) else if kk = 0x15 then .ok (.ldDtVx x)
    else if kk = 0x1E then .ok (.addI x) else if kk = 0x29 then .ok (.ldF x) else if kk = 0x33 then .ok (.ldB x)
    else if kk = 0x55 then .ok (.storeRegs x) else if kk = 0x65 then .ok (.loadRegs x)
    else .error (.illegalOpcode (0xF#4 ++ x ++ kk)))

/-- The bits decode ignores: every low nibble of 5XYn and 9XYn, every `Y` of 8XY6 and 8XYE (R86, R89; that families 5
and 9 have no second level is the spec's own inference). -/
def Obligations.IgnoredBitsDoNotMatter : Prop :=
  ∀ (x y : Reg) (n : BitVec 4),
    decodeWord (0x5#4 ++ x ++ y ++ n) = .ok (.seReg x y) ∧ decodeWord (0x9#4 ++ x ++ y ++ n) = .ok (.sneReg x y) ∧
    decodeWord (0x8#4 ++ x ++ y ++ 0x6#4) = .ok (.shr x) ∧ decodeWord (0x8#4 ++ x ++ y ++ 0xE#4) = .ok (.shl x)

/-! ### The run cycle -/

/-- A running core whose `pc` is fetchable and whose two bytes at `pc` decode to an instruction executes exactly that
instruction; around it the step only replaces the inputs the cycle sampled: by the head of `pending`, or, when that is
empty, by the next free ones (R100; the inputs' form is the model's, log entry 1). -/
def Obligations.StepRunsDecodedInstruction : Prop :=
  ∀ (s : State) (i : Instr), s.halted = false → s.pc.toNat % 2 = 0 → 0x200 ≤ s.pc.toNat → s.pc.toNat < 0x1000 →
    decodeWord (s.readByte s.pc.toNat ++ s.readByte (s.pc.toNat + 1)) = .ok i →
    step s = endCycle (exec i s) ∧
    ∀ t, exec i s = .next t → step s = .next t.nextInputs ∧ KeptExcept t t.nextInputs [.inputs] ∧
      (∀ c cs, t.pending = c :: cs →
        t.nextInputs.keys = c.keys ∧ t.nextInputs.rnd = c.rnd ∧ t.nextInputs.pending = cs ∧
        t.nextInputs.draws = t.draws) ∧
      (t.pending = [] →
        t.nextInputs.keys = Config.freeKeys t.draws ∧ t.nextInputs.rnd = Config.freeRnd t.draws ∧
        t.nextInputs.pending = [] ∧ t.nextInputs.draws = t.draws + 1)

/-- The five outcomes of RunCycle(keys, rnd), in the order of R100: halted, FetchFault, IllegalOpcode, or the
instruction executed with these inputs, which completes or faults. After a cycle that ran the inputs are gone (the form
of the inputs is the model's, log entry 1). -/
def Obligations.RunCycleFollowsItsSteps : Prop :=
  ∀ (s : State) (c : CycleInput),
    (s.halted = true → s.runCycle c = some (.halted s.cause, s.withInputs c.keys c.rnd)) ∧
    (s.halted = false → fetchable s.pc = false →
      ∃ t, s.runCycle c = some (.faulted 2, t) ∧ t.halted = true ∧ t.cause = 2 ∧ t.finfo = s.pc ∧
        KeptExcept s t [.latch, .inputs]) ∧
    (s.halted = false → fetchable s.pc = true →
      decodeWord (s.readWord s.pc.toNat) = .error (.illegalOpcode (s.readWord s.pc.toNat)) →
      ∃ t, s.runCycle c = some (.faulted 1, t) ∧ t.halted = true ∧ t.cause = 1 ∧
        t.finfo = s.readWord s.pc.toNat ∧ KeptExcept s t [.latch, .inputs]) ∧
    (∀ i, s.halted = false → fetchable s.pc = true → decodeWord (s.readWord s.pc.toNat) = .ok i →
      ∃ t, exec i (s.withInputs c.keys c.rnd) = .next t ∧
        s.runCycle c = some (if t.halted then .faulted t.cause else .completed, t.nextInputs))

/-- A halted core: any number of run cycles changes nothing at all and reports the recorded cause (R101); a program
load is accepted, writes memory and does not release it, and Reset releases it (R193; the spec's decision D2). -/
def Obligations.HaltedUntilReset : Prop :=
  ∀ s : State, s.halted = true →
    (∀ k, Sys2Proof.core.run k s = .next s) ∧ cycleResult s s = .halted s.cause ∧
    (∀ bytes, (s.loadProgram bytes).2.halted = true ∧ (s.loadProgram bytes).2.cause = s.cause ∧
      (s.loadProgram bytes).2.finfo = s.finfo ∧
      (bytes.length ≤ 3584 → (s.loadProgram bytes).1 = .ok ∧
        ∀ k < bytes.length, (s.loadProgram bytes).2.readByte (0x200 + k) = bytes.getD k 0)) ∧
    s.resetCore.halted = false ∧ s.resetCore.cause = 0 ∧ s.resetCore.finfo = 0

/-- The fetch checks (R56; the spec's decision D8): with `pc` odd, below 0x200, or at or above 0x1000 the fetch raises
FetchFault(pc), and the cycle changes nothing but the latch and the inputs; otherwise both bytes exist and the fetch
answers a word. -/
def Obligations.FetchFaultOnUnfetchablePc : Prop :=
  ∀ s : State,
    if s.pc.toNat % 2 = 1 ∨ s.pc.toNat < 0x200 ∨ 0x1000 ≤ s.pc.toNat then
      s.fetchOpcode = .error ⟨.fetchFault, s.pc⟩ ∧
      (s.halted = false →
        ∃ t, step s = .next t ∧ t.halted = true ∧ t.cause = 2 ∧ t.finfo = s.pc ∧ KeptExcept s t [.latch, .inputs])
    else 0x200 ≤ s.pc.toNat ∧ s.pc.toNat ≤ 0xFFE ∧ ∃ op, s.fetchOpcode = .ok op

/-- An unrecognised word raises IllegalOpcode(op), code 1, and changes nothing but the latch and the inputs
(R90; the spec's decision D6). -/
def Obligations.IllegalOpcodeHalts : Prop :=
  ∀ s : State, s.halted = false → fetchable s.pc = true →
    (∀ r ∈ opcodeTable, s.readWord s.pc.toNat &&& r.mask ≠ r.pattern) →
    ∃ t, step s = .next t ∧ t.halted = true ∧ t.cause = 1 ∧ t.finfo = s.readWord s.pc.toNat ∧
      KeptExcept s t [.latch, .inputs]

/-- Fetch reads two consecutive bytes as one big-endian word: the byte at the lower address is the high byte (R55). -/
def Obligations.FetchReadsBigEndian : Prop :=
  ∀ s : State, fetchable s.pc = true →
    ∃ op : Word, s.fetchOpcode = .ok op ∧
      op.toNat = 256 * (s.readByte s.pc.toNat).toNat + (s.readByte (s.pc.toNat + 1)).toNat ∧
      Op.highByte op = s.readByte s.pc.toNat ∧ Op.lowByte op = s.readByte (s.pc.toNat + 1)

/-- A store into code is seen by the very next fetch: LD [I],Vx with `I` at the next instruction replaces the word the
next cycle fetches (R69, R239, which the spec derives). -/
def Obligations.StoredCodeIsFetchedNext : Prop :=
  ∀ (s : State) (x : Reg), s.halted = false → fetchable s.pc = true →
    decodeWord (s.readWord s.pc.toNat) = .ok (.storeRegs x) → 1 ≤ x.toNat →
    s.idx.toNat = s.pc.toNat + 2 → s.idx.toNat + x.toNat ≤ 0xFFF →
    ∃ t, step s = .next t ∧ t.halted = false ∧ t.pc = s.pc + 2 ∧ t.fetchOpcode = .ok (s.reg 0 ++ s.reg 1)

/-! ### Faults -/

/-- Whatever raises a fault, nothing but the latch changes (and the cycle's inputs are gone): the latch holds the code
and the information R195 gives for it, `pc` keeps its value, and the cycle reports the code (R191, R195). An
instruction's own fault changes the latch alone. -/
def Obligations.FaultChangesOnlyTheLatch : Prop :=
  (∀ s t : State, step s = .next t → s.halted = false → t.halted = true →
    ∃ f : Cause, t.cause = f.code ∧ t.finfo = s.faultInfo f ∧ t.pc = s.pc ∧ KeptExcept s t [.latch, .inputs] ∧
      cycleResult s t = .faulted f.code) ∧
  (∀ (i : Instr) (s t : State), exec i s = .next t → s.halted = false → t.halted = true →
    ∃ (f : Cause) (info : Word), Faulted s t f.code info)

/-- Which instruction can raise which fault, and the code of each fault (R194); the reserved code 10 is raised by
none. -/
def Obligations.FaultCausesByInstruction : Prop :=
  ([Cause.illegalOpcode, .fetchFault, .writeProtect, .addressOutOfRange, .stackOverflow, .stackUnderflow,
    .drawOutOfRange, .keyIndexOutOfRange, .glyphDigitOutOfRange, .registerIndexOutOfRange].map
      (fun f => f.code.toNat) = [1, 2, 3, 4, 5, 6, 7, 8, 9, 10]) ∧
  ∀ (i : Instr) (s t : State), exec i s = .next t → s.halted = false → t.halted = true →
    ∃ f ∈ i.mayRaise, t.cause = f.code ∧ f ≠ .registerIndexOutOfRange

/-! ### Family 0x0 and control transfer -/

/-- CLS (R110). -/
def Obligations.ClsClearsTheFramebuffer : Prop :=
  decodeWord 0x00E0 = .ok .cls ∧
  ∀ s : State, ∃ t, exec .cls s = .next t ∧
    (∀ px py, t.fbGet px py = false) ∧ t.pc = s.pc + 2 ∧ KeptExcept s t [.fb, .pc]

/-- RET (R111): StackUnderflow(0) on an empty stack; else `pc` is the popped value plus 2, `sp` goes down by one and
the popped entry stays. -/
def Obligations.RetPopsAndAddsTwo : Prop :=
  decodeWord 0x00EE = .ok .ret ∧
  ∀ s : State, ∃ t, exec .ret s = .next t ∧
    if s.sp = 0 then Faulted s t 6 0
    else (t.pc = s.stackAt s.sp + 2 ∧ t.sp.toNat + 1 = s.sp.toNat ∧ (∀ k, t.stackAt k = s.stackAt k) ∧
      KeptExcept s t [.pc, .stack])

/-- JP nnn (R112). -/
def Obligations.JpReplacesPc : Prop :=
  ∀ nnn : Addr12, decodeWord (0x1#4 ++ nnn) = .ok (.jp nnn) ∧
    ∀ s : State, ∃ t, exec (.jp nnn) s = .next t ∧ t.pc.toNat = nnn.toNat ∧ KeptExcept s t [.pc]

/-- CALL nnn (R113): StackOverflow(pc) with 15 calls open; else its own address is pushed. -/
def Obligations.CallPushesItsOwnAddress : Prop :=
  ∀ nnn : Addr12, decodeWord (0x2#4 ++ nnn) = .ok (.call nnn) ∧
    ∀ s : State, ∃ t, exec (.call nnn) s = .next t ∧
      if s.sp = 15 then Faulted s t 5 s.pc
      else (t.pc.toNat = nnn.toNat ∧ t.sp.toNat = s.sp.toNat + 1 ∧
        (∀ k, t.stackAt k = if k = t.sp then s.pc else s.stackAt k) ∧ KeptExcept s t [.pc, .stack])

/-- JP V0,nnn (R114): always register 0, and the sum is not reduced to 12 bits. -/
def Obligations.JpV0AddsRegisterZero : Prop :=
  ∀ nnn : Addr12, decodeWord (0xB#4 ++ nnn) = .ok (.jpV0 nnn) ∧
    ∀ s : State, ∃ t, exec (.jpV0 nnn) s = .next t ∧ t.pc.toNat = nnn.toNat + (s.reg 0).toNat ∧ KeptExcept s t [.pc]

/-! ### Skips -/

/-- SE Vx,kk and SNE Vx,kk (R120, R121). -/
def Obligations.SkipOnImmediate : Prop :=
  ∀ (x : Reg) (kk : Byte),
    decodeWord (0x3#4 ++ x ++ kk) = .ok (.seImm x kk) ∧ decodeWord (0x4#4 ++ x ++ kk) = .ok (.sneImm x kk) ∧
    ∀ s : State,
      (∃ t, exec (.seImm x kk) s = .next t ∧
        t.pc = s.pc + (if (s.reg x).toNat = kk.toNat then 4 else 2) ∧ KeptExcept s t [.pc]) ∧
      (∃ t, exec (.sneImm x kk) s = .next t ∧
        t.pc = s.pc + (if (s.reg x).toNat = kk.toNat then 2 else 4) ∧ KeptExcept s t [.pc])

/-- SE Vx,Vy and SNE Vx,Vy (R122, R123), for every low nibble. -/
def Obligations.SkipOnRegisters : Prop :=
  ∀ (x y : Reg),
    (∀ n : BitVec 4, decodeWord (0x5#4 ++ x ++ y ++ n) = .ok (.seReg x y) ∧
      decodeWord (0x9#4 ++ x ++ y ++ n) = .ok (.sneReg x y)) ∧
    ∀ s : State,
      (∃ t, exec (.seReg x y) s = .next t ∧
        t.pc = s.pc + (if (s.reg x).toNat = (s.reg y).toNat then 4 else 2) ∧ KeptExcept s t [.pc]) ∧
      (∃ t, exec (.sneReg x y) s = .next t ∧
        t.pc = s.pc + (if (s.reg x).toNat = (s.reg y).toNat then 2 else 4) ∧ KeptExcept s t [.pc])

/-- SKP Vx and SKNP Vx (R124, R125): a key index above 15 raises KeyIndexOutOfRange; else `pc + 4` if the condition
holds, and nothing changes at all if it does not. -/
def Obligations.SkipOnKeyOrStay : Prop :=
  ∀ x : Reg,
    decodeWord (0xE#4 ++ x ++ 0x9E#8) = .ok (.skp x) ∧ decodeWord (0xE#4 ++ x ++ 0xA1#8) = .ok (.sknp x) ∧
    ∀ s : State,
      (∃ t, exec (.skp x) s = .next t ∧
        if 15 < (s.reg x).toNat then Faulted s t 8 ((s.reg x).setWidth 16)
        else if s.keys.getLsbD (s.reg x).toNat = true then (t.pc = s.pc + 4 ∧ KeptExcept s t [.pc])
        else t = s) ∧
      (∃ t, exec (.sknp x) s = .next t ∧
        if 15 < (s.reg x).toNat then Faulted s t 8 ((s.reg x).setWidth 16)
        else if s.keys.getLsbD (s.reg x).toNat = false then (t.pc = s.pc + 4 ∧ KeptExcept s t [.pc])
        else t = s)

/-! ### Immediates -/

/-- LD Vx,kk (R130), `X = 15` included. -/
def Obligations.LoadImmediate : Prop :=
  ∀ (x : Reg) (kk : Byte), decodeWord (0x6#4 ++ x ++ kk) = .ok (.ldImm x kk) ∧
    ∀ s : State, ∃ t, exec (.ldImm x kk) s = .next t ∧
      (∀ i, t.reg i = if i = x then kk else s.reg i) ∧ t.pc = s.pc + 2 ∧ KeptExcept s t [.regs, .pc]

/-- ADD Vx,kk (R131): wraps modulo 256 with no flag; with `X = 15` register 15 receives the wrapped sum. -/
def Obligations.AddImmediateWrapsWithoutFlag : Prop :=
  ∀ (x : Reg) (kk : Byte), decodeWord (0x7#4 ++ x ++ kk) = .ok (.addImm x kk) ∧
    ∀ s : State, ∃ t, exec (.addImm x kk) s = .next t ∧
      (∀ i, (t.reg i).toNat = if i = x then ((s.reg x).toNat + kk.toNat) % 256 else (s.reg i).toNat) ∧
      t.pc = s.pc + 2 ∧ KeptExcept s t [.regs, .pc]

/-- LD I,nnn (R132): zero-extended. -/
def Obligations.LoadIndexImmediate : Prop :=
  ∀ nnn : Addr12, decodeWord (0xA#4 ++ nnn) = .ok (.ldI nnn) ∧
    ∀ s : State, ∃ t, exec (.ldI nnn) s = .next t ∧ t.idx.toNat = nnn.toNat ∧ t.pc = s.pc + 2 ∧
      KeptExcept s t [.idx, .pc]

/-- RND Vx,kk (R133): bit by bit, the cycle's random byte where the mask is set, and 0 elsewhere. -/
def Obligations.RandomIsMasked : Prop :=
  ∀ (x : Reg) (kk : Byte), decodeWord (0xC#4 ++ x ++ kk) = .ok (.rnd x kk) ∧
    ∀ s : State, ∃ t, exec (.rnd x kk) s = .next t ∧
      (∀ b, (t.reg x).getLsbD b = (s.rnd.getLsbD b && kk.getLsbD b)) ∧ (∀ i, i ≠ x → t.reg i = s.reg i) ∧
      t.pc = s.pc + 2 ∧ KeptExcept s t [.regs, .pc]

/-! ### Family 0x8 -/

/-- LD Vx,Vy, OR, AND, XOR (R141 to R144): the destination bit by bit, no flag. -/
def Obligations.CopyAndLogic : Prop :=
  ∀ (x y : Reg),
    decodeWord (0x8#4 ++ x ++ y ++ 0x0#4) = .ok (.ldReg x y) ∧ decodeWord (0x8#4 ++ x ++ y ++ 0x1#4) = .ok (.orReg x y) ∧
    decodeWord (0x8#4 ++ x ++ y ++ 0x2#4) = .ok (.andReg x y) ∧
    decodeWord (0x8#4 ++ x ++ y ++ 0x3#4) = .ok (.xorReg x y) ∧
    ∀ (s : State) (i : Instr) (f : Bool → Bool → Bool),
      (i, f) ∈ [(Instr.ldReg x y, fun _ b => b), (Instr.orReg x y, fun a b => a || b),
        (Instr.andReg x y, fun a b => a && b), (Instr.xorReg x y, fun a b => a ^^ b)] →
      ∃ t, exec i s = .next t ∧
        (∀ b < 8, (t.reg x).getLsbD b = f ((s.reg x).getLsbD b) ((s.reg y).getLsbD b)) ∧
        (∀ r, r ≠ x → t.reg r = s.reg r) ∧ t.pc = s.pc + 2 ∧ KeptExcept s t [.regs, .pc]

/-- ADD Vx,Vy (R145): the sum modulo 256, and register 15 the carry, written second (so with `X = 15` the carry
remains, the spec's decision D16). -/
def Obligations.AddSetsCarry : Prop :=
  ∀ (x y : Reg), decodeWord (0x8#4 ++ x ++ y ++ 0x4#4) = .ok (.addReg x y) ∧
    ∀ s : State, ∃ t, exec (.addReg x y) s = .next t ∧
      (∀ i, (t.reg i).toNat =
        if i = 15 then (if 255 < (s.reg x).toNat + (s.reg y).toNat then 1 else 0)
        else if i = x then ((s.reg x).toNat + (s.reg y).toNat) % 256 else (s.reg i).toNat) ∧
      t.pc = s.pc + 2 ∧ KeptExcept s t [.regs, .pc]

/-- SUB Vx,Vy (R146): X - Y modulo 256, and register 15 is 1 exactly on a borrow, written second. -/
def Obligations.SubSetsBorrow : Prop :=
  ∀ (x y : Reg), decodeWord (0x8#4 ++ x ++ y ++ 0x5#4) = .ok (.subReg x y) ∧
    ∀ s : State, ∃ t, exec (.subReg x y) s = .next t ∧
      (∀ i, (t.reg i).toNat =
        if i = 15 then (if (s.reg x).toNat < (s.reg y).toNat then 1 else 0)
        else if i = x then (256 + (s.reg x).toNat - (s.reg y).toNat) % 256 else (s.reg i).toNat) ∧
      t.pc = s.pc + 2 ∧ KeptExcept s t [.regs, .pc]

/-- SHR Vx (R147), for every `Y`: register 15 is the low bit, written first, so with `X = 15` the shifted value
remains. -/
def Obligations.ShrCapturesLowBit : Prop :=
  ∀ x : Reg, (∀ y : Reg, decodeWord (0x8#4 ++ x ++ y ++ 0x6#4) = .ok (.shr x)) ∧
    ∀ s : State, ∃ t, exec (.shr x) s = .next t ∧
      (∀ i, (t.reg i).toNat =
        if i = x then (s.reg x).toNat / 2 else if i = 15 then (s.reg x).toNat % 2 else (s.reg i).toNat) ∧
      t.pc = s.pc + 2 ∧ KeptExcept s t [.regs, .pc]

/-- SUBN Vx,Vy (R148): Y - X modulo 256 into X, and register 15 is 1 exactly on a borrow, written second. -/
def Obligations.SubnSetsBorrow : Prop :=
  ∀ (x y : Reg), decodeWord (0x8#4 ++ x ++ y ++ 0x7#4) = .ok (.subnReg x y) ∧
    ∀ s : State, ∃ t, exec (.subnReg x y) s = .next t ∧
      (∀ i, (t.reg i).toNat =
        if i = 15 then (if (s.reg y).toNat < (s.reg x).toNat then 1 else 0)
        else if i = x then (256 + (s.reg y).toNat - (s.reg x).toNat) % 256 else (s.reg i).toNat) ∧
      t.pc = s.pc + 2 ∧ KeptExcept s t [.regs, .pc]

/-- SHL Vx (R149), for every `Y`: register 15 is bit 7 as 0 or 1, written first. -/
def Obligations.ShlCapturesHighBit : Prop :=
  ∀ x : Reg, (∀ y : Reg, decodeWord (0x8#4 ++ x ++ y ++ 0xE#4) = .ok (.shl x)) ∧
    ∀ s : State, ∃ t, exec (.shl x) s = .next t ∧
      (∀ i, (t.reg i).toNat =
        if i = x then 2 * (s.reg x).toNat % 256 else if i = 15 then (s.reg x).toNat / 128 else (s.reg i).toNat) ∧
      t.pc = s.pc + 2 ∧ KeptExcept s t [.regs, .pc]

/-! ### Sprite draw -/

/-- DRW Vx,Vy,n (R160, R161): with every address of the sprite in memory and every set bit on the grid, exactly the
cells the sprite hits are toggled, and register 15 is 1 exactly when one of them was on before; an address above 0xFFF
raises AddressOutOfRange, and this is tested before the coordinates. The origin is read before register 15 is reset,
so `X = 15` and `Y = 15` are covered. -/
def Obligations.DrawTogglesTheSprite : Prop :=
  ∀ (x y : Reg) (n : BitVec 4), decodeWord (0xD#4 ++ x ++ y ++ n) = .ok (.drw x y n) ∧
    ∀ s : State, ∃ t, exec (.drw x y n) s = .next t ∧
      (n ≠ 0 → 0x1000 < s.idx.toNat + n.toNat →
        Faulted s t 4 (if 0xFFF < s.idx.toNat then s.idx else 0x1000)) ∧
      ((n = 0 ∨ s.idx.toNat + n.toNat ≤ 0x1000) →
        (∃ px py, s.drawHits x y n px py = true ∧ (63 < px ∨ 63 < py)) → Faulted s t 7 (s.reg x ++ s.reg y)) ∧
      ((n = 0 ∨ s.idx.toNat + n.toNat ≤ 0x1000) →
        (∀ px py, s.drawHits x y n px py = true → px ≤ 63 ∧ py ≤ 63) →
        (∀ px py, t.fbGet px py = (s.fbGet px py ^^ s.drawHits x y n px py)) ∧
        ((∃ px py, s.drawHits x y n px py = true ∧ s.fbGet px py = true) → t.reg 15 = 1) ∧
        ((∀ px py, s.drawHits x y n px py = true → s.fbGet px py = false) → t.reg 15 = 0) ∧
        (∀ i, i ≠ 15 → t.reg i = s.reg i) ∧ t.pc = s.pc + 2 ∧ KeptExcept s t [.regs, .fb, .pc])

/-- DRW off the grid (R162; rejection is the spec's decision D13): a set bit in row `r`, column `c` with `vx + c > 63` or `vy + r > 63` raises
DrawOutOfRange with the unreduced origin as information, and nothing is drawn; clear bits do not matter. -/
def Obligations.DrawOffGridFaults : Prop :=
  ∀ (x y : Reg) (n : BitVec 4) (s : State), n = 0 ∨ s.idx.toNat + n.toNat ≤ 0x1000 →
    ((∃ r < n.toNat, ∃ c < 8, (s.readByte (s.idx.toNat + r)).getLsbD (7 - c) = true ∧
        (63 < (s.reg x).toNat + c ∨ 63 < (s.reg y).toNat + r)) →
      ∃ t, exec (.drw x y n) s = .next t ∧ Faulted s t 7 (s.reg x ++ s.reg y)) ∧
    ((∀ r < n.toNat, ∀ c < 8, (s.readByte (s.idx.toNat + r)).getLsbD (7 - c) = true →
        (s.reg x).toNat + c ≤ 63 ∧ (s.reg y).toNat + r ≤ 63) →
      ∃ t, exec (.drw x y n) s = .next t ∧ t.halted = s.halted ∧ t.pc = s.pc + 2)

/-- DRW with height 0 (R163): no memory is read whatever `I` is, no cell changes, register 15 becomes 0. -/
def Obligations.DrawHeightZero : Prop :=
  ∀ (x y : Reg) (s : State), ∃ t, exec (.drw x y 0) s = .next t ∧
    (∀ i, t.reg i = if i = 15 then 0 else s.reg i) ∧ t.pc = s.pc + 2 ∧ KeptExcept s t [.regs, .pc]

/-! ### Family 0xF -/

/-- LD Vx,DT (R170). -/
def Obligations.ReadDelayTimer : Prop :=
  ∀ x : Reg, decodeWord (0xF#4 ++ x ++ 0x07#8) = .ok (.ldVxDt x) ∧
    ∀ s : State, ∃ t, exec (.ldVxDt x) s = .next t ∧
      (∀ i, t.reg i = if i = x then s.dt else s.reg i) ∧ t.pc = s.pc + 2 ∧ KeptExcept s t [.regs, .pc]

/-- LD Vx,K (R171): the lowest pressed key's index and `pc + 2`; with no key pressed nothing changes at all. -/
def Obligations.WaitForKeyTakesTheLowest : Prop :=
  ∀ x : Reg, decodeWord (0xF#4 ++ x ++ 0x0A#8) = .ok (.ldVxK x) ∧
    ∀ s : State,
      ((∀ k < 16, s.keys.getLsbD k = false) → exec (.ldVxK x) s = .next s) ∧
      (∀ k < 16, s.keys.getLsbD k = true → (∀ j < k, s.keys.getLsbD j = false) →
        ∃ t, exec (.ldVxK x) s = .next t ∧ (∀ i, (t.reg i).toNat = if i = x then k else (s.reg i).toNat) ∧
          t.pc = s.pc + 2 ∧ KeptExcept s t [.regs, .pc])

/-- LD DT,Vx (R172). -/
def Obligations.WriteDelayTimer : Prop :=
  ∀ x : Reg, decodeWord (0xF#4 ++ x ++ 0x15#8) = .ok (.ldDtVx x) ∧
    ∀ s : State, ∃ t, exec (.ldDtVx x) s = .next t ∧ t.dt = s.reg x ∧ t.pc = s.pc + 2 ∧ KeptExcept s t [.dt, .pc]

/-- ADD I,Vx (R173): 16-bit wraparound, no flag. -/
def Obligations.AddToIndexWraps : Prop :=
  ∀ x : Reg, decodeWord (0xF#4 ++ x ++ 0x1E#8) = .ok (.addI x) ∧
    ∀ s : State, ∃ t, exec (.addI x) s = .next t ∧ t.idx.toNat = (s.idx.toNat + (s.reg x).toNat) % 65536 ∧
      t.pc = s.pc + 2 ∧ KeptExcept s t [.idx, .pc]

/-- LD F,Vx (R174): a digit above 15 raises GlyphDigitOutOfRange; else `I` is `GLYPH_BASE + 5 d`, below 0x200. -/
def Obligations.GlyphAddressOfDigit : Prop :=
  ∀ x : Reg, decodeWord (0xF#4 ++ x ++ 0x29#8) = .ok (.ldF x) ∧
    ∀ s : State, ∃ t, exec (.ldF x) s = .next t ∧
      if 15 < (s.reg x).toNat then Faulted s t 9 ((s.reg x).setWidth 16)
      else (t.idx.toNat = Config.glyphBase.val + 5 * (s.reg x).toNat ∧ t.idx.toNat < 0x200 ∧ t.pc = s.pc + 2 ∧
        KeptExcept s t [.idx, .pc])

/-- LD B,Vx (R175): the three decimal digits at `I`, `I + 1`, `I + 2`; all three addresses are checked before any byte
is written, and the fault reports the first that fails. -/
def Obligations.StoreBcd : Prop :=
  ∀ x : Reg, decodeWord (0xF#4 ++ x ++ 0x33#8) = .ok (.ldB x) ∧
    ∀ s : State, ∃ t, exec (.ldB x) s = .next t ∧
      if s.idx.toNat < 0x200 then Faulted s t 3 s.idx
      else if 0xFFF < s.idx.toNat + 2 then Faulted s t 4 (if 0xFFF < s.idx.toNat then s.idx else 0x1000)
      else ((∀ a, (t.readByte a).toNat =
          if a = s.idx.toNat then (s.reg x).toNat / 100
          else if a = s.idx.toNat + 1 then (s.reg x).toNat / 10 % 10
          else if a = s.idx.toNat + 2 then (s.reg x).toNat % 10
          else (s.readByte a).toNat) ∧
        t.pc = s.pc + 2 ∧ KeptExcept s t [.mem, .pc])

/-- LD [I],Vx (R176): registers 0 to X at `I` and upward, then `I` moves past them; nothing is stored on a fault. -/
def Obligations.StoreRegisterBlock : Prop :=
  ∀ x : Reg, decodeWord (0xF#4 ++ x ++ 0x55#8) = .ok (.storeRegs x) ∧
    ∀ s : State, ∃ t, exec (.storeRegs x) s = .next t ∧
      if s.idx.toNat < 0x200 then Faulted s t 3 s.idx
      else if 0xFFF < s.idx.toNat + x.toNat then Faulted s t 4 (if 0xFFF < s.idx.toNat then s.idx else 0x1000)
      else ((∀ k : Reg, k.toNat ≤ x.toNat → t.readByte (s.idx.toNat + k.toNat) = s.reg k) ∧
        (∀ a, a < s.idx.toNat ∨ s.idx.toNat + x.toNat < a → t.readByte a = s.readByte a) ∧
        t.idx.toNat = s.idx.toNat + x.toNat + 1 ∧ t.pc = s.pc + 2 ∧ KeptExcept s t [.mem, .idx, .pc])

/-- LD Vx,[I] (R177): registers 0 to X from `I` and upward, then `I` moves past them; there is no read protection. -/
def Obligations.LoadRegisterBlock : Prop :=
  ∀ x : Reg, decodeWord (0xF#4 ++ x ++ 0x65#8) = .ok (.loadRegs x) ∧
    ∀ s : State, ∃ t, exec (.loadRegs x) s = .next t ∧
      if 0xFFF < s.idx.toNat + x.toNat then Faulted s t 4 (if 0xFFF < s.idx.toNat then s.idx else 0x1000)
      else ((∀ k : Reg, t.reg k = if k.toNat ≤ x.toNat then s.readByte (s.idx.toNat + k.toNat) else s.reg k) ∧
        t.idx.toNat = s.idx.toNat + x.toNat + 1 ∧ t.pc = s.pc + 2 ∧ KeptExcept s t [.regs, .idx, .pc])

/-- The BCD digits (R178): hundreds 0 to 2, tens and ones 0 to 9, and they make the value. -/
def Obligations.BcdDigitsMakeTheValue : Prop :=
  ∀ v : Byte, ∃ h t o : Byte, bcdDigits v = [h, t, o] ∧ h.toNat ≤ 2 ∧ t.toNat ≤ 9 ∧ o.toNat ≤ 9 ∧
    v.toNat = 100 * h.toNat + 10 * t.toNat + o.toNat ∧ h.toNat = v.toNat / 100 ∧
    t.toNat = v.toNat / 10 % 10 ∧ o.toNat = v.toNat % 10

/-! ### Rules of the whole machine -/

/-- The source's property on `pc` (R108): every instruction outside {jump, call, return, jump-with-offset, skip*}
that completes advances `pc` by exactly 2, but for wait-for-key with no key pressed, which leaves it. -/
def Obligations.PcAdvancesByTwo : Prop :=
  ∀ (i : Instr) (s t : State), exec i s = .next t → s.halted = false → t.halted = false →
    i.transfersOrSkips = false →
    ((∀ x, i = .ldVxK x → s.keys ≠ 0) → t.pc = s.pc + 2) ∧
    ((∃ x, i = .ldVxK x) → s.keys = 0 → t.pc = s.pc)

/-- No instruction writes a register outside the write rows of R23; in particular register 15 changes only as a flag of
the six flag writers of R39 or as a destination. -/
def Obligations.RegistersWrittenByTheTable : Prop :=
  ∀ (i : Instr) (s t : State) (r : Reg), exec i s = .next t → i.mayWriteReg r = false → t.reg r = s.reg r

/-- The frame of every instruction: a part of the state that the rules do not let it change reads the same, whether it
completes or faults (a fault changes the latch alone). -/
def Obligations.FrameByInstruction : Prop :=
  ∀ (i : Instr) (s t : State) (p : Part), exec i s = .next t → i.mayChange p = false → p ≠ .latch ∨ i.mayRaise = [] →
    Kept s t p

/-- The inputs are read by few (R102): `keys` only by SKP, SKNP and LD Vx,K, `rnd` only by RND. With other inputs any
other instruction answers the same state but for the inputs themselves. -/
def Obligations.InputsIgnoredByTheRest : Prop :=
  ∀ (i : Instr) (s t : State) (keys : BitVec 16) (rnd : Byte), exec i s = .next t →
    (i.readsRnd = false → exec i (s.withInputs s.keys rnd) = .next (t.withInputs s.keys rnd)) ∧
    (i.readsKeys = false → exec i (s.withInputs keys s.rnd) = .next (t.withInputs keys s.rnd))

/-- Every step keeps memory canonical and within the program region, and the latch consistent (R34, R40, R53). -/
def Obligations.StepKeepsMachineInv : Prop :=
  ∀ s t : State, MachineInv s → step s = .next t → MachineInv t

/-- Every step keeps `pc` at most 0x10FE, every live call-stack entry fetchable, and entry 0 unwritten (R26, R30; the
bound is the spec's own inference). -/
def Obligations.StepKeepsControlInv : Prop :=
  ∀ s t : State, ControlInv s → step s = .next t → ControlInv t

/-- Both invariants hold at reset. -/
def Obligations.ResetMeetsTheInvariants : Prop := MachineInv State.reset ∧ ControlInv State.reset

/-- No step and no program load changes a byte below 0x200 (R53, R54). -/
def Obligations.ReservedRegionNeverWritten : Prop :=
  ∀ (s : State) (a : Nat), a < 0x200 →
    (∀ t, step s = .next t → t.readByte a = s.readByte a) ∧
    ∀ bytes, (s.loadProgram bytes).2.readByte a = s.readByte a

/-- What Reset leaves, from any state (R38): the glyph table at `GLYPH_BASE`, whatever that is, and zero elsewhere;
`pc` 0x200; registers, `I`, `dt` zero (the spec's decision D18); stack, framebuffer and latch clear. -/
def Obligations.ResetLeavesTheResetState : Prop :=
  ∀ s r : State, r = s.resetCore ∨ r = State.reset →
    r.pc = 0x200 ∧ (∀ i, r.reg i = 0) ∧ r.idx = 0 ∧ r.dt = 0 ∧ r.sp = 0 ∧ (∀ k, r.stackAt k = 0) ∧
    (∀ px py, r.fbGet px py = false) ∧
    (∀ a, a < 0x1000 → r.readByte a =
      if Config.glyphBase.val ≤ a ∧ a < Config.glyphBase.val + 80 then Config.glyphRom.getD (a - Config.glyphBase.val) 0
      else 0) ∧
    r.halted = false ∧ r.cause = 0 ∧ r.finfo = 0

/-- LoadProgram (R233, R234): a buffer that fits is copied at 0x200 and nothing else is touched; one that does not fit
is refused and nothing is written. -/
def Obligations.LoadProgramCopiesOrRefuses : Prop :=
  ∀ (s : State) (bytes : List Byte),
    (0x200 + bytes.length ≤ 4096 → ∃ t, s.loadProgram bytes = (.ok, t) ∧
      (∀ a, t.readByte a = if 0x200 ≤ a ∧ a < 0x200 + bytes.length then bytes.getD (a - 0x200) 0 else s.readByte a) ∧
      KeptExcept s t [.mem]) ∧
    (4096 < 0x200 + bytes.length → s.loadProgram bytes = (.programTooLarge, s))

/-- A RET that finds the call stack as a CALL left it continues after that CALL, at the same depth (R25, R111,
R113). -/
def Obligations.CallThenReturn : Prop :=
  ∀ (nnn : Addr12) (s t u : State), s.sp ≠ 15 → exec (.call nnn) s = .next t →
    u.sp = t.sp → u.stackAt u.sp = t.stackAt t.sp →
    ∃ v, exec .ret u = .next v ∧ v.pc = s.pc + 2 ∧ v.sp = s.sp

/-- Drawing the same sprite twice at the same coordinates toggles every touched pixel back off, and the second draw
reports a collision exactly when the sprite touches a pixel (R160, its example S10). With `X` or `Y` 15 the first draw
changes the origin of the second, so the coordinates are not the same. Here the framebuffer starts clear where the
sprite lies. -/
def Obligations.DrawTwiceRestores : Prop :=
  ∀ (x y : Reg) (n : BitVec 4) (s t u : State), x ≠ 15 → y ≠ 15 →
    exec (.drw x y n) s = .next t → s.halted = false → t.halted = false → exec (.drw x y n) t = .next u →
    (∀ px py, s.drawHits x y n px py = true → s.fbGet px py = false) →
    u.halted = false ∧ (∀ px py, u.fbGet px py = s.fbGet px py) ∧ t.reg 15 = 0 ∧
    (u.reg 15 = 1 ↔ ∃ px py, s.drawHits x y n px py = true)

/-- JP to its own address is a fixed point of the cycle for all inputs (R243, the spec's end-of-run convention, its
decision D28). -/
def Obligations.JumpToSelfIsFixed : Prop :=
  ∀ s : State, s.halted = false → fetchable s.pc = true → s.readWord s.pc.toNat = 0x1000#16 ||| s.pc →
    step s = .next s.nextInputs ∧
    ∀ c : CycleInput, ∃ t, s.runCycle c = some (.completed, t) ∧ KeptExcept s t [.inputs]

/-- Boot without a program (R236): the first cycle after reset fetches 0x0000 at 0x200 and halts with
IllegalOpcode. -/
def Obligations.BootWithoutProgramHalts : Prop :=
  ∃ t, step State.reset = .next t ∧ t.halted = true ∧ t.cause = 1 ∧ t.finfo = 0x0000 ∧ t.pc = 0x200

/-- What the host reads of a cell is a function of the one bit: luminance 1 if it is on, else 0, and the opaque alpha,
whatever its value (R32, R204; log entry 5). -/
def Obligations.PixelShowsTheCell : Prop :=
  ∀ (s : State) (px py : Nat),
    (s.pixel px py).luminance.toNat = (if s.fbGet px py = true then 1 else 0) ∧
    (s.pixel px py).alpha = Config.opaqueAlpha
end

