-- ==== Sys2Proof/Laws/Decode.lean ====
section
/-! SUPPORT. The fields of the three word layouts of R82, and what decode answers for each layout. -/

namespace Sys2Proof

/-! ### Format ADDR -/

@[simp] theorem Op.fam_addr (f : BitVec 4) (nnn : Addr12) : Op.fam (f ++ nnn) = f := by
  ext i hi
  simp only [Op.fam, BitVec.getElem_extractLsb', BitVec.getLsbD_append]
  simp [show ¬ 12 + i < 12 by omega, hi]

@[simp] theorem Op.nnn_addr (f : BitVec 4) (nnn : Addr12) : Op.nnn (f ++ nnn) = nnn := by
  ext i hi
  simp only [Op.nnn, BitVec.getElem_extractLsb', BitVec.getLsbD_append, Nat.zero_add]
  simp [hi]

/-! ### Formats XKK and XSUB -/

@[simp] theorem Op.fam_xkk (f : BitVec 4) (x : Reg) (kk : Byte) : Op.fam (f ++ x ++ kk) = f := by
  ext i hi
  simp only [Op.fam, BitVec.getElem_extractLsb', BitVec.getLsbD_append]
  simp [show ¬ 12 + i < 8 by omega, show ¬ 12 + i - 8 < 4 by omega, show 12 + i - 8 - 4 = i by omega, hi]

@[simp] theorem Op.x_xkk (f : BitVec 4) (x : Reg) (kk : Byte) : Op.x (f ++ x ++ kk) = x := by
  ext i hi
  simp only [Op.x, BitVec.getElem_extractLsb', BitVec.getLsbD_append]
  simp [show ¬ 8 + i < 8 by omega, hi]

@[simp] theorem Op.kk_xkk (f : BitVec 4) (x : Reg) (kk : Byte) : Op.kk (f ++ x ++ kk) = kk := by
  ext i hi
  simp only [Op.kk, BitVec.getElem_extractLsb', BitVec.getLsbD_append, Nat.zero_add]
  simp [hi]

/-! ### Formats XY and XYN -/

@[simp] theorem Op.fam_xyn (f : BitVec 4) (x y : Reg) (n : BitVec 4) : Op.fam (f ++ x ++ y ++ n) = f := by
  ext i hi
  simp only [Op.fam, BitVec.getElem_extractLsb', BitVec.getLsbD_append]
  simp [show ¬ 12 + i < 4 by omega, show ¬ 12 + i - 4 < 4 by omega, show ¬ 12 + i - 4 - 4 < 4 by omega,
    show 12 + i - 4 - 4 - 4 = i by omega, hi]

@[simp] theorem Op.x_xyn (f : BitVec 4) (x y : Reg) (n : BitVec 4) : Op.x (f ++ x ++ y ++ n) = x := by
  ext i hi
  simp only [Op.x, BitVec.getElem_extractLsb', BitVec.getLsbD_append]
  simp [show ¬ 8 + i < 4 by omega, show ¬ 8 + i - 4 < 4 by omega, show 8 + i - 4 - 4 = i by omega, hi]

@[simp] theorem Op.y_xyn (f : BitVec 4) (x y : Reg) (n : BitVec 4) : Op.y (f ++ x ++ y ++ n) = y := by
  ext i hi
  simp only [Op.y, BitVec.getElem_extractLsb', BitVec.getLsbD_append]
  simp [show ¬ 4 + i < 4 by omega, hi]

@[simp] theorem Op.n_xyn (f : BitVec 4) (x y : Reg) (n : BitVec 4) : Op.n (f ++ x ++ y ++ n) = n := by
  ext i hi
  simp only [Op.n, BitVec.getElem_extractLsb', BitVec.getLsbD_append, Nat.zero_add]
  simp [hi]

/-! ### Every word has each layout -/

/-- A word is its family and its 12-bit operand. -/
theorem Op.eq_addr (op : Word) : Op.fam op ++ Op.nnn op = op := by
  apply BitVec.eq_of_toNat_eq
  simp only [Op.fam, Op.nnn, BitVec.toNat_append, BitVec.extractLsb'_toNat,
    Nat.shiftRight_eq_div_pow]
  rw [← Nat.shiftLeft_add_eq_or_of_lt (Nat.mod_lt _ (by decide)), Nat.shiftLeft_eq]
  omega

/-- A word is its family, its first register field and its low byte. -/
theorem Op.eq_xkk (op : Word) : Op.fam op ++ Op.x op ++ Op.kk op = op := by
  apply BitVec.eq_of_toNat_eq
  simp only [Op.fam, Op.x, Op.kk, BitVec.toNat_append, BitVec.extractLsb'_toNat,
    Nat.shiftRight_eq_div_pow]
  rw [← Nat.shiftLeft_add_eq_or_of_lt (Nat.mod_lt _ (by decide)), Nat.shiftLeft_eq,
    ← Nat.shiftLeft_add_eq_or_of_lt (Nat.mod_lt _ (by decide)), Nat.shiftLeft_eq]
  omega

/-- A word is its four nibbles. -/
theorem Op.eq_xyn (op : Word) : Op.fam op ++ Op.x op ++ Op.y op ++ Op.n op = op := by
  apply BitVec.eq_of_toNat_eq
  simp only [Op.fam, Op.x, Op.y, Op.n, BitVec.toNat_append, BitVec.extractLsb'_toNat,
    Nat.shiftRight_eq_div_pow]
  rw [← Nat.shiftLeft_add_eq_or_of_lt (Nat.mod_lt _ (by decide)), Nat.shiftLeft_eq,
    ← Nat.shiftLeft_add_eq_or_of_lt (Nat.mod_lt _ (by decide)), Nat.shiftLeft_eq,
    ← Nat.shiftLeft_add_eq_or_of_lt (Nat.mod_lt _ (by decide)), Nat.shiftLeft_eq]
  omega

/-- A word is its two stored bytes, high byte first. -/
theorem Op.eq_bytes (op : Word) : Op.highByte op ++ Op.lowByte op = op := by
  apply BitVec.eq_of_toNat_eq
  simp only [Op.highByte, Op.lowByte, BitVec.toNat_append, BitVec.extractLsb'_toNat,
    Nat.shiftRight_eq_div_pow]
  rw [← Nat.shiftLeft_add_eq_or_of_lt (Nat.mod_lt _ (by decide)), Nat.shiftLeft_eq]
  omega

@[simp] theorem Op.highByte_append (h l : Byte) : Op.highByte (h ++ l) = h := by
  ext i hi
  simp only [Op.highByte, BitVec.getElem_extractLsb', BitVec.getLsbD_append]
  simp [show ¬ 8 + i < 8 by omega, hi]

@[simp] theorem Op.lowByte_append (h l : Byte) : Op.lowByte (h ++ l) = l := by
  ext i hi
  simp only [Op.lowByte, BitVec.getElem_extractLsb', BitVec.getLsbD_append, Nat.zero_add]
  simp [hi]

/-! ### What decode answers for each layout -/

/-- The twelve single-level families, in format ADDR (R84). -/
theorem decodeWord_addr (nnn : Addr12) :
    decodeWord (0x1#4 ++ nnn) = .ok (.jp nnn) ∧ decodeWord (0x2#4 ++ nnn) = .ok (.call nnn) ∧
    decodeWord (0xA#4 ++ nnn) = .ok (.ldI nnn) ∧ decodeWord (0xB#4 ++ nnn) = .ok (.jpV0 nnn) := by
  simp [decodeWord]

/-- The single-level families of format XKK (R84). -/
theorem decodeWord_xkk (x : Reg) (kk : Byte) :
    decodeWord (0x3#4 ++ x ++ kk) = .ok (.seImm x kk) ∧ decodeWord (0x4#4 ++ x ++ kk) = .ok (.sneImm x kk) ∧
    decodeWord (0x6#4 ++ x ++ kk) = .ok (.ldImm x kk) ∧ decodeWord (0x7#4 ++ x ++ kk) = .ok (.addImm x kk) ∧
    decodeWord (0xC#4 ++ x ++ kk) = .ok (.rnd x kk) := by
  simp [decodeWord]

/-- The single-level families of formats XY and XYN; families 5 and 9 ignore the low nibble (R84, R89). -/
theorem decodeWord_xyn (x y : Reg) (n : BitVec 4) :
    decodeWord (0x5#4 ++ x ++ y ++ n) = .ok (.seReg x y) ∧ decodeWord (0x9#4 ++ x ++ y ++ n) = .ok (.sneReg x y) ∧
    decodeWord (0xD#4 ++ x ++ y ++ n) = .ok (.drw x y n) := by
  simp [decodeWord]

/-- The four two-level families hand over to their second level (R84). -/
theorem decodeWord_two_level (op : Word) :
    (Op.fam op = 0x0#4 → decodeWord op = decodeFam0 op) ∧ (Op.fam op = 0x8#4 → decodeWord op = decodeFam8 op) ∧
    (Op.fam op = 0xE#4 → decodeWord op = decodeFamE op) ∧ (Op.fam op = 0xF#4 → decodeWord op = decodeFamF op) := by
  refine ⟨?_, ?_, ?_, ?_⟩ <;> intro h <;> simp [decodeWord, h]

/-- Two bytes decode as the word they make, and the rest is handed back (R80). -/
theorem decodeBytes_wordBytes (w : Word) (rest : List Byte) :
    decodeBytes (wordBytes w ++ rest) =
      match decodeWord w with
      | .ok i => .ok (i, rest)
      | .error e => .error e := by
  cases h : decodeWord w <;> simp [wordBytes, decodeBytes, Op.eq_bytes, h]

end Sys2Proof
end

