-- ==== Sys2Proof/Laws/State.lean ====
section
/-! SUPPORT. One lemma per field per update of the state, tagged for simp, so that no proof unfolds a record update. -/

namespace Sys2Proof.Machine

/-- A fold of `toggleCell` keeps whatever one `toggleCell` keeps. -/
theorem foldl_toggle_field {α : Type} (f : State → α) (h : ∀ u c, f (State.toggleCell u c) = f u)
    (s : State) (cs : List (Nat × Nat)) : f (cs.foldl State.toggleCell s) = f s := by
  induction cs generalizing s with
  | nil => rfl
  | cons c cs ih => rw [List.foldl_cons, ih, h]

/-! #### setReg -/

@[simp] theorem State.setReg_x (s : State) (i : Reg) (v : Byte) : (s.setReg i v).x = s.x.set i.toNat v i.isLt := rfl
@[simp] theorem State.setReg_idx (s : State) (i : Reg) (v : Byte) : (s.setReg i v).idx = s.idx := rfl
@[simp] theorem State.setReg_pc (s : State) (i : Reg) (v : Byte) : (s.setReg i v).pc = s.pc := rfl
@[simp] theorem State.setReg_dt (s : State) (i : Reg) (v : Byte) : (s.setReg i v).dt = s.dt := rfl
@[simp] theorem State.setReg_mem (s : State) (i : Reg) (v : Byte) : (s.setReg i v).mem = s.mem := rfl
@[simp] theorem State.setReg_stack (s : State) (i : Reg) (v : Byte) : (s.setReg i v).stack = s.stack := rfl
@[simp] theorem State.setReg_sp (s : State) (i : Reg) (v : Byte) : (s.setReg i v).sp = s.sp := rfl
@[simp] theorem State.setReg_fb (s : State) (i : Reg) (v : Byte) : (s.setReg i v).fb = s.fb := rfl
@[simp] theorem State.setReg_halted (s : State) (i : Reg) (v : Byte) : (s.setReg i v).halted = s.halted := rfl
@[simp] theorem State.setReg_cause (s : State) (i : Reg) (v : Byte) : (s.setReg i v).cause = s.cause := rfl
@[simp] theorem State.setReg_finfo (s : State) (i : Reg) (v : Byte) : (s.setReg i v).finfo = s.finfo := rfl
@[simp] theorem State.setReg_keys (s : State) (i : Reg) (v : Byte) : (s.setReg i v).keys = s.keys := rfl
@[simp] theorem State.setReg_rnd (s : State) (i : Reg) (v : Byte) : (s.setReg i v).rnd = s.rnd := rfl
@[simp] theorem State.setReg_pending (s : State) (i : Reg) (v : Byte) : (s.setReg i v).pending = s.pending := rfl
@[simp] theorem State.setReg_draws (s : State) (i : Reg) (v : Byte) : (s.setReg i v).draws = s.draws := rfl
@[simp] theorem State.setReg_readByte (s : State) (i : Reg) (v : Byte) (p : Nat) : (s.setReg i v).readByte p = s.readByte p := rfl
@[simp] theorem State.setReg_stackAt (s : State) (i : Reg) (v : Byte) (m : BitVec 4) : (s.setReg i v).stackAt m = s.stackAt m := rfl
@[simp] theorem State.setReg_fbGet (s : State) (i : Reg) (v : Byte) (qx qy : Nat) : (s.setReg i v).fbGet qx qy = s.fbGet qx qy := rfl

/-! #### setIdx -/

@[simp] theorem State.setIdx_x (s : State) (v : Word) : (s.setIdx v).x = s.x := rfl
@[simp] theorem State.setIdx_idx (s : State) (v : Word) : (s.setIdx v).idx = v := rfl
@[simp] theorem State.setIdx_pc (s : State) (v : Word) : (s.setIdx v).pc = s.pc := rfl
@[simp] theorem State.setIdx_dt (s : State) (v : Word) : (s.setIdx v).dt = s.dt := rfl
@[simp] theorem State.setIdx_mem (s : State) (v : Word) : (s.setIdx v).mem = s.mem := rfl
@[simp] theorem State.setIdx_stack (s : State) (v : Word) : (s.setIdx v).stack = s.stack := rfl
@[simp] theorem State.setIdx_sp (s : State) (v : Word) : (s.setIdx v).sp = s.sp := rfl
@[simp] theorem State.setIdx_fb (s : State) (v : Word) : (s.setIdx v).fb = s.fb := rfl
@[simp] theorem State.setIdx_halted (s : State) (v : Word) : (s.setIdx v).halted = s.halted := rfl
@[simp] theorem State.setIdx_cause (s : State) (v : Word) : (s.setIdx v).cause = s.cause := rfl
@[simp] theorem State.setIdx_finfo (s : State) (v : Word) : (s.setIdx v).finfo = s.finfo := rfl
@[simp] theorem State.setIdx_keys (s : State) (v : Word) : (s.setIdx v).keys = s.keys := rfl
@[simp] theorem State.setIdx_rnd (s : State) (v : Word) : (s.setIdx v).rnd = s.rnd := rfl
@[simp] theorem State.setIdx_pending (s : State) (v : Word) : (s.setIdx v).pending = s.pending := rfl
@[simp] theorem State.setIdx_draws (s : State) (v : Word) : (s.setIdx v).draws = s.draws := rfl
@[simp] theorem State.setIdx_reg (s : State) (v : Word) (j : Reg) : (s.setIdx v).reg j = s.reg j := rfl
@[simp] theorem State.setIdx_readByte (s : State) (v : Word) (p : Nat) : (s.setIdx v).readByte p = s.readByte p := rfl
@[simp] theorem State.setIdx_stackAt (s : State) (v : Word) (m : BitVec 4) : (s.setIdx v).stackAt m = s.stackAt m := rfl
@[simp] theorem State.setIdx_fbGet (s : State) (v : Word) (qx qy : Nat) : (s.setIdx v).fbGet qx qy = s.fbGet qx qy := rfl

/-! #### setDt -/

@[simp] theorem State.setDt_x (s : State) (v : Byte) : (s.setDt v).x = s.x := rfl
@[simp] theorem State.setDt_idx (s : State) (v : Byte) : (s.setDt v).idx = s.idx := rfl
@[simp] theorem State.setDt_pc (s : State) (v : Byte) : (s.setDt v).pc = s.pc := rfl
@[simp] theorem State.setDt_dt (s : State) (v : Byte) : (s.setDt v).dt = v := rfl
@[simp] theorem State.setDt_mem (s : State) (v : Byte) : (s.setDt v).mem = s.mem := rfl
@[simp] theorem State.setDt_stack (s : State) (v : Byte) : (s.setDt v).stack = s.stack := rfl
@[simp] theorem State.setDt_sp (s : State) (v : Byte) : (s.setDt v).sp = s.sp := rfl
@[simp] theorem State.setDt_fb (s : State) (v : Byte) : (s.setDt v).fb = s.fb := rfl
@[simp] theorem State.setDt_halted (s : State) (v : Byte) : (s.setDt v).halted = s.halted := rfl
@[simp] theorem State.setDt_cause (s : State) (v : Byte) : (s.setDt v).cause = s.cause := rfl
@[simp] theorem State.setDt_finfo (s : State) (v : Byte) : (s.setDt v).finfo = s.finfo := rfl
@[simp] theorem State.setDt_keys (s : State) (v : Byte) : (s.setDt v).keys = s.keys := rfl
@[simp] theorem State.setDt_rnd (s : State) (v : Byte) : (s.setDt v).rnd = s.rnd := rfl
@[simp] theorem State.setDt_pending (s : State) (v : Byte) : (s.setDt v).pending = s.pending := rfl
@[simp] theorem State.setDt_draws (s : State) (v : Byte) : (s.setDt v).draws = s.draws := rfl
@[simp] theorem State.setDt_reg (s : State) (v : Byte) (j : Reg) : (s.setDt v).reg j = s.reg j := rfl
@[simp] theorem State.setDt_readByte (s : State) (v : Byte) (p : Nat) : (s.setDt v).readByte p = s.readByte p := rfl
@[simp] theorem State.setDt_stackAt (s : State) (v : Byte) (m : BitVec 4) : (s.setDt v).stackAt m = s.stackAt m := rfl
@[simp] theorem State.setDt_fbGet (s : State) (v : Byte) (qx qy : Nat) : (s.setDt v).fbGet qx qy = s.fbGet qx qy := rfl

/-! #### setPc -/

@[simp] theorem State.setPc_x (s : State) (v : Word) : (s.setPc v).x = s.x := rfl
@[simp] theorem State.setPc_idx (s : State) (v : Word) : (s.setPc v).idx = s.idx := rfl
@[simp] theorem State.setPc_pc (s : State) (v : Word) : (s.setPc v).pc = v := rfl
@[simp] theorem State.setPc_dt (s : State) (v : Word) : (s.setPc v).dt = s.dt := rfl
@[simp] theorem State.setPc_mem (s : State) (v : Word) : (s.setPc v).mem = s.mem := rfl
@[simp] theorem State.setPc_stack (s : State) (v : Word) : (s.setPc v).stack = s.stack := rfl
@[simp] theorem State.setPc_sp (s : State) (v : Word) : (s.setPc v).sp = s.sp := rfl
@[simp] theorem State.setPc_fb (s : State) (v : Word) : (s.setPc v).fb = s.fb := rfl
@[simp] theorem State.setPc_halted (s : State) (v : Word) : (s.setPc v).halted = s.halted := rfl
@[simp] theorem State.setPc_cause (s : State) (v : Word) : (s.setPc v).cause = s.cause := rfl
@[simp] theorem State.setPc_finfo (s : State) (v : Word) : (s.setPc v).finfo = s.finfo := rfl
@[simp] theorem State.setPc_keys (s : State) (v : Word) : (s.setPc v).keys = s.keys := rfl
@[simp] theorem State.setPc_rnd (s : State) (v : Word) : (s.setPc v).rnd = s.rnd := rfl
@[simp] theorem State.setPc_pending (s : State) (v : Word) : (s.setPc v).pending = s.pending := rfl
@[simp] theorem State.setPc_draws (s : State) (v : Word) : (s.setPc v).draws = s.draws := rfl
@[simp] theorem State.setPc_reg (s : State) (v : Word) (j : Reg) : (s.setPc v).reg j = s.reg j := rfl
@[simp] theorem State.setPc_readByte (s : State) (v : Word) (p : Nat) : (s.setPc v).readByte p = s.readByte p := rfl
@[simp] theorem State.setPc_stackAt (s : State) (v : Word) (m : BitVec 4) : (s.setPc v).stackAt m = s.stackAt m := rfl
@[simp] theorem State.setPc_fbGet (s : State) (v : Word) (qx qy : Nat) : (s.setPc v).fbGet qx qy = s.fbGet qx qy := rfl

/-! #### advance -/

@[simp] theorem State.advance_x (s : State) (k : Word) : (s.advance k).x = s.x := rfl
@[simp] theorem State.advance_idx (s : State) (k : Word) : (s.advance k).idx = s.idx := rfl
@[simp] theorem State.advance_pc (s : State) (k : Word) : (s.advance k).pc = s.pc + k := rfl
@[simp] theorem State.advance_dt (s : State) (k : Word) : (s.advance k).dt = s.dt := rfl
@[simp] theorem State.advance_mem (s : State) (k : Word) : (s.advance k).mem = s.mem := rfl
@[simp] theorem State.advance_stack (s : State) (k : Word) : (s.advance k).stack = s.stack := rfl
@[simp] theorem State.advance_sp (s : State) (k : Word) : (s.advance k).sp = s.sp := rfl
@[simp] theorem State.advance_fb (s : State) (k : Word) : (s.advance k).fb = s.fb := rfl
@[simp] theorem State.advance_halted (s : State) (k : Word) : (s.advance k).halted = s.halted := rfl
@[simp] theorem State.advance_cause (s : State) (k : Word) : (s.advance k).cause = s.cause := rfl
@[simp] theorem State.advance_finfo (s : State) (k : Word) : (s.advance k).finfo = s.finfo := rfl
@[simp] theorem State.advance_keys (s : State) (k : Word) : (s.advance k).keys = s.keys := rfl
@[simp] theorem State.advance_rnd (s : State) (k : Word) : (s.advance k).rnd = s.rnd := rfl
@[simp] theorem State.advance_pending (s : State) (k : Word) : (s.advance k).pending = s.pending := rfl
@[simp] theorem State.advance_draws (s : State) (k : Word) : (s.advance k).draws = s.draws := rfl
@[simp] theorem State.advance_reg (s : State) (k : Word) (j : Reg) : (s.advance k).reg j = s.reg j := rfl
@[simp] theorem State.advance_readByte (s : State) (k : Word) (p : Nat) : (s.advance k).readByte p = s.readByte p := rfl
@[simp] theorem State.advance_stackAt (s : State) (k : Word) (m : BitVec 4) : (s.advance k).stackAt m = s.stackAt m := rfl
@[simp] theorem State.advance_fbGet (s : State) (k : Word) (qx qy : Nat) : (s.advance k).fbGet qx qy = s.fbGet qx qy := rfl

/-! #### storeByte -/

@[simp] theorem State.storeByte_x (s : State) (a : Nat) (v : Byte) : (s.storeByte a v).x = s.x := rfl
@[simp] theorem State.storeByte_idx (s : State) (a : Nat) (v : Byte) : (s.storeByte a v).idx = s.idx := rfl
@[simp] theorem State.storeByte_pc (s : State) (a : Nat) (v : Byte) : (s.storeByte a v).pc = s.pc := rfl
@[simp] theorem State.storeByte_dt (s : State) (a : Nat) (v : Byte) : (s.storeByte a v).dt = s.dt := rfl
@[simp] theorem State.storeByte_mem (s : State) (a : Nat) (v : Byte) : (s.storeByte a v).mem = Memory.write s.mem a v := rfl
@[simp] theorem State.storeByte_stack (s : State) (a : Nat) (v : Byte) : (s.storeByte a v).stack = s.stack := rfl
@[simp] theorem State.storeByte_sp (s : State) (a : Nat) (v : Byte) : (s.storeByte a v).sp = s.sp := rfl
@[simp] theorem State.storeByte_fb (s : State) (a : Nat) (v : Byte) : (s.storeByte a v).fb = s.fb := rfl
@[simp] theorem State.storeByte_halted (s : State) (a : Nat) (v : Byte) : (s.storeByte a v).halted = s.halted := rfl
@[simp] theorem State.storeByte_cause (s : State) (a : Nat) (v : Byte) : (s.storeByte a v).cause = s.cause := rfl
@[simp] theorem State.storeByte_finfo (s : State) (a : Nat) (v : Byte) : (s.storeByte a v).finfo = s.finfo := rfl
@[simp] theorem State.storeByte_keys (s : State) (a : Nat) (v : Byte) : (s.storeByte a v).keys = s.keys := rfl
@[simp] theorem State.storeByte_rnd (s : State) (a : Nat) (v : Byte) : (s.storeByte a v).rnd = s.rnd := rfl
@[simp] theorem State.storeByte_pending (s : State) (a : Nat) (v : Byte) : (s.storeByte a v).pending = s.pending := rfl
@[simp] theorem State.storeByte_draws (s : State) (a : Nat) (v : Byte) : (s.storeByte a v).draws = s.draws := rfl
@[simp] theorem State.storeByte_reg (s : State) (a : Nat) (v : Byte) (j : Reg) : (s.storeByte a v).reg j = s.reg j := rfl
@[simp] theorem State.storeByte_stackAt (s : State) (a : Nat) (v : Byte) (m : BitVec 4) : (s.storeByte a v).stackAt m = s.stackAt m := rfl
@[simp] theorem State.storeByte_fbGet (s : State) (a : Nat) (v : Byte) (qx qy : Nat) : (s.storeByte a v).fbGet qx qy = s.fbGet qx qy := rfl

/-! #### push -/

@[simp] theorem State.push_x (s : State) (a : Word) : (s.push a).x = s.x := rfl
@[simp] theorem State.push_idx (s : State) (a : Word) : (s.push a).idx = s.idx := rfl
@[simp] theorem State.push_pc (s : State) (a : Word) : (s.push a).pc = s.pc := rfl
@[simp] theorem State.push_dt (s : State) (a : Word) : (s.push a).dt = s.dt := rfl
@[simp] theorem State.push_mem (s : State) (a : Word) : (s.push a).mem = s.mem := rfl
@[simp] theorem State.push_stack (s : State) (a : Word) : (s.push a).stack = s.stack.set (s.sp + 1).toNat a (s.sp + 1).isLt := rfl
@[simp] theorem State.push_sp (s : State) (a : Word) : (s.push a).sp = s.sp + 1 := rfl
@[simp] theorem State.push_fb (s : State) (a : Word) : (s.push a).fb = s.fb := rfl
@[simp] theorem State.push_halted (s : State) (a : Word) : (s.push a).halted = s.halted := rfl
@[simp] theorem State.push_cause (s : State) (a : Word) : (s.push a).cause = s.cause := rfl
@[simp] theorem State.push_finfo (s : State) (a : Word) : (s.push a).finfo = s.finfo := rfl
@[simp] theorem State.push_keys (s : State) (a : Word) : (s.push a).keys = s.keys := rfl
@[simp] theorem State.push_rnd (s : State) (a : Word) : (s.push a).rnd = s.rnd := rfl
@[simp] theorem State.push_pending (s : State) (a : Word) : (s.push a).pending = s.pending := rfl
@[simp] theorem State.push_draws (s : State) (a : Word) : (s.push a).draws = s.draws := rfl
@[simp] theorem State.push_reg (s : State) (a : Word) (j : Reg) : (s.push a).reg j = s.reg j := rfl
@[simp] theorem State.push_readByte (s : State) (a : Word) (p : Nat) : (s.push a).readByte p = s.readByte p := rfl
@[simp] theorem State.push_fbGet (s : State) (a : Word) (qx qy : Nat) : (s.push a).fbGet qx qy = s.fbGet qx qy := rfl

/-! #### dropTop -/

@[simp] theorem State.dropTop_x (s : State) : (s.dropTop).x = s.x := rfl
@[simp] theorem State.dropTop_idx (s : State) : (s.dropTop).idx = s.idx := rfl
@[simp] theorem State.dropTop_pc (s : State) : (s.dropTop).pc = s.pc := rfl
@[simp] theorem State.dropTop_dt (s : State) : (s.dropTop).dt = s.dt := rfl
@[simp] theorem State.dropTop_mem (s : State) : (s.dropTop).mem = s.mem := rfl
@[simp] theorem State.dropTop_stack (s : State) : (s.dropTop).stack = s.stack := rfl
@[simp] theorem State.dropTop_sp (s : State) : (s.dropTop).sp = s.sp - 1 := rfl
@[simp] theorem State.dropTop_fb (s : State) : (s.dropTop).fb = s.fb := rfl
@[simp] theorem State.dropTop_halted (s : State) : (s.dropTop).halted = s.halted := rfl
@[simp] theorem State.dropTop_cause (s : State) : (s.dropTop).cause = s.cause := rfl
@[simp] theorem State.dropTop_finfo (s : State) : (s.dropTop).finfo = s.finfo := rfl
@[simp] theorem State.dropTop_keys (s : State) : (s.dropTop).keys = s.keys := rfl
@[simp] theorem State.dropTop_rnd (s : State) : (s.dropTop).rnd = s.rnd := rfl
@[simp] theorem State.dropTop_pending (s : State) : (s.dropTop).pending = s.pending := rfl
@[simp] theorem State.dropTop_draws (s : State) : (s.dropTop).draws = s.draws := rfl
@[simp] theorem State.dropTop_reg (s : State) (j : Reg) : (s.dropTop).reg j = s.reg j := rfl
@[simp] theorem State.dropTop_readByte (s : State) (p : Nat) : (s.dropTop).readByte p = s.readByte p := rfl
@[simp] theorem State.dropTop_stackAt (s : State) (m : BitVec 4) : (s.dropTop).stackAt m = s.stackAt m := rfl
@[simp] theorem State.dropTop_fbGet (s : State) (qx qy : Nat) : (s.dropTop).fbGet qx qy = s.fbGet qx qy := rfl

/-! #### fbSet -/

@[simp] theorem State.fbSet_x (s : State) (px py : Nat) (b : Bool) : (s.fbSet px py b).x = s.x := rfl
@[simp] theorem State.fbSet_idx (s : State) (px py : Nat) (b : Bool) : (s.fbSet px py b).idx = s.idx := rfl
@[simp] theorem State.fbSet_pc (s : State) (px py : Nat) (b : Bool) : (s.fbSet px py b).pc = s.pc := rfl
@[simp] theorem State.fbSet_dt (s : State) (px py : Nat) (b : Bool) : (s.fbSet px py b).dt = s.dt := rfl
@[simp] theorem State.fbSet_mem (s : State) (px py : Nat) (b : Bool) : (s.fbSet px py b).mem = s.mem := rfl
@[simp] theorem State.fbSet_stack (s : State) (px py : Nat) (b : Bool) : (s.fbSet px py b).stack = s.stack := rfl
@[simp] theorem State.fbSet_sp (s : State) (px py : Nat) (b : Bool) : (s.fbSet px py b).sp = s.sp := rfl
@[simp] theorem State.fbSet_halted (s : State) (px py : Nat) (b : Bool) : (s.fbSet px py b).halted = s.halted := rfl
@[simp] theorem State.fbSet_cause (s : State) (px py : Nat) (b : Bool) : (s.fbSet px py b).cause = s.cause := rfl
@[simp] theorem State.fbSet_finfo (s : State) (px py : Nat) (b : Bool) : (s.fbSet px py b).finfo = s.finfo := rfl
@[simp] theorem State.fbSet_keys (s : State) (px py : Nat) (b : Bool) : (s.fbSet px py b).keys = s.keys := rfl
@[simp] theorem State.fbSet_rnd (s : State) (px py : Nat) (b : Bool) : (s.fbSet px py b).rnd = s.rnd := rfl
@[simp] theorem State.fbSet_pending (s : State) (px py : Nat) (b : Bool) : (s.fbSet px py b).pending = s.pending := rfl
@[simp] theorem State.fbSet_draws (s : State) (px py : Nat) (b : Bool) : (s.fbSet px py b).draws = s.draws := rfl
@[simp] theorem State.fbSet_reg (s : State) (px py : Nat) (b : Bool) (j : Reg) : (s.fbSet px py b).reg j = s.reg j := rfl
@[simp] theorem State.fbSet_readByte (s : State) (px py : Nat) (b : Bool) (p : Nat) : (s.fbSet px py b).readByte p = s.readByte p := rfl
@[simp] theorem State.fbSet_stackAt (s : State) (px py : Nat) (b : Bool) (m : BitVec 4) : (s.fbSet px py b).stackAt m = s.stackAt m := rfl

/-! #### fbClear -/

@[simp] theorem State.fbClear_x (s : State) : (s.fbClear).x = s.x := rfl
@[simp] theorem State.fbClear_idx (s : State) : (s.fbClear).idx = s.idx := rfl
@[simp] theorem State.fbClear_pc (s : State) : (s.fbClear).pc = s.pc := rfl
@[simp] theorem State.fbClear_dt (s : State) : (s.fbClear).dt = s.dt := rfl
@[simp] theorem State.fbClear_mem (s : State) : (s.fbClear).mem = s.mem := rfl
@[simp] theorem State.fbClear_stack (s : State) : (s.fbClear).stack = s.stack := rfl
@[simp] theorem State.fbClear_sp (s : State) : (s.fbClear).sp = s.sp := rfl
@[simp] theorem State.fbClear_fb (s : State) : (s.fbClear).fb = Vector.replicate 64 0 := rfl
@[simp] theorem State.fbClear_halted (s : State) : (s.fbClear).halted = s.halted := rfl
@[simp] theorem State.fbClear_cause (s : State) : (s.fbClear).cause = s.cause := rfl
@[simp] theorem State.fbClear_finfo (s : State) : (s.fbClear).finfo = s.finfo := rfl
@[simp] theorem State.fbClear_keys (s : State) : (s.fbClear).keys = s.keys := rfl
@[simp] theorem State.fbClear_rnd (s : State) : (s.fbClear).rnd = s.rnd := rfl
@[simp] theorem State.fbClear_pending (s : State) : (s.fbClear).pending = s.pending := rfl
@[simp] theorem State.fbClear_draws (s : State) : (s.fbClear).draws = s.draws := rfl
@[simp] theorem State.fbClear_reg (s : State) (j : Reg) : (s.fbClear).reg j = s.reg j := rfl
@[simp] theorem State.fbClear_readByte (s : State) (p : Nat) : (s.fbClear).readByte p = s.readByte p := rfl
@[simp] theorem State.fbClear_stackAt (s : State) (m : BitVec 4) : (s.fbClear).stackAt m = s.stackAt m := rfl

/-! #### raise -/

@[simp] theorem State.raise_x (s : State) (f : FaultReport) : (s.raise f).x = s.x := rfl
@[simp] theorem State.raise_idx (s : State) (f : FaultReport) : (s.raise f).idx = s.idx := rfl
@[simp] theorem State.raise_pc (s : State) (f : FaultReport) : (s.raise f).pc = s.pc := rfl
@[simp] theorem State.raise_dt (s : State) (f : FaultReport) : (s.raise f).dt = s.dt := rfl
@[simp] theorem State.raise_mem (s : State) (f : FaultReport) : (s.raise f).mem = s.mem := rfl
@[simp] theorem State.raise_stack (s : State) (f : FaultReport) : (s.raise f).stack = s.stack := rfl
@[simp] theorem State.raise_sp (s : State) (f : FaultReport) : (s.raise f).sp = s.sp := rfl
@[simp] theorem State.raise_fb (s : State) (f : FaultReport) : (s.raise f).fb = s.fb := rfl
@[simp] theorem State.raise_halted (s : State) (f : FaultReport) : (s.raise f).halted = true := rfl
@[simp] theorem State.raise_cause (s : State) (f : FaultReport) : (s.raise f).cause = f.cause.code := rfl
@[simp] theorem State.raise_finfo (s : State) (f : FaultReport) : (s.raise f).finfo = f.info := rfl
@[simp] theorem State.raise_keys (s : State) (f : FaultReport) : (s.raise f).keys = s.keys := rfl
@[simp] theorem State.raise_rnd (s : State) (f : FaultReport) : (s.raise f).rnd = s.rnd := rfl
@[simp] theorem State.raise_pending (s : State) (f : FaultReport) : (s.raise f).pending = s.pending := rfl
@[simp] theorem State.raise_draws (s : State) (f : FaultReport) : (s.raise f).draws = s.draws := rfl
@[simp] theorem State.raise_reg (s : State) (f : FaultReport) (j : Reg) : (s.raise f).reg j = s.reg j := rfl
@[simp] theorem State.raise_readByte (s : State) (f : FaultReport) (p : Nat) : (s.raise f).readByte p = s.readByte p := rfl
@[simp] theorem State.raise_stackAt (s : State) (f : FaultReport) (m : BitVec 4) : (s.raise f).stackAt m = s.stackAt m := rfl
@[simp] theorem State.raise_fbGet (s : State) (f : FaultReport) (qx qy : Nat) : (s.raise f).fbGet qx qy = s.fbGet qx qy := rfl

/-! #### setFlag -/

@[simp] theorem State.setFlag_idx (s : State) (b : Bool) : (s.setFlag b).idx = s.idx := rfl
@[simp] theorem State.setFlag_pc (s : State) (b : Bool) : (s.setFlag b).pc = s.pc := rfl
@[simp] theorem State.setFlag_dt (s : State) (b : Bool) : (s.setFlag b).dt = s.dt := rfl
@[simp] theorem State.setFlag_mem (s : State) (b : Bool) : (s.setFlag b).mem = s.mem := rfl
@[simp] theorem State.setFlag_stack (s : State) (b : Bool) : (s.setFlag b).stack = s.stack := rfl
@[simp] theorem State.setFlag_sp (s : State) (b : Bool) : (s.setFlag b).sp = s.sp := rfl
@[simp] theorem State.setFlag_fb (s : State) (b : Bool) : (s.setFlag b).fb = s.fb := rfl
@[simp] theorem State.setFlag_halted (s : State) (b : Bool) : (s.setFlag b).halted = s.halted := rfl
@[simp] theorem State.setFlag_cause (s : State) (b : Bool) : (s.setFlag b).cause = s.cause := rfl
@[simp] theorem State.setFlag_finfo (s : State) (b : Bool) : (s.setFlag b).finfo = s.finfo := rfl
@[simp] theorem State.setFlag_keys (s : State) (b : Bool) : (s.setFlag b).keys = s.keys := rfl
@[simp] theorem State.setFlag_rnd (s : State) (b : Bool) : (s.setFlag b).rnd = s.rnd := rfl
@[simp] theorem State.setFlag_pending (s : State) (b : Bool) : (s.setFlag b).pending = s.pending := rfl
@[simp] theorem State.setFlag_draws (s : State) (b : Bool) : (s.setFlag b).draws = s.draws := rfl
@[simp] theorem State.setFlag_readByte (s : State) (b : Bool) (p : Nat) : (s.setFlag b).readByte p = s.readByte p := rfl
@[simp] theorem State.setFlag_stackAt (s : State) (b : Bool) (m : BitVec 4) : (s.setFlag b).stackAt m = s.stackAt m := rfl
@[simp] theorem State.setFlag_fbGet (s : State) (b : Bool) (qx qy : Nat) : (s.setFlag b).fbGet qx qy = s.fbGet qx qy := rfl

/-! #### resultThenFlag -/

@[simp] theorem State.resultThenFlag_idx (s : State) (x : Reg) (v : Byte) (f : Bool) : (s.resultThenFlag x v f).idx = s.idx := rfl
@[simp] theorem State.resultThenFlag_pc (s : State) (x : Reg) (v : Byte) (f : Bool) : (s.resultThenFlag x v f).pc = s.pc := rfl
@[simp] theorem State.resultThenFlag_dt (s : State) (x : Reg) (v : Byte) (f : Bool) : (s.resultThenFlag x v f).dt = s.dt := rfl
@[simp] theorem State.resultThenFlag_mem (s : State) (x : Reg) (v : Byte) (f : Bool) : (s.resultThenFlag x v f).mem = s.mem := rfl
@[simp] theorem State.resultThenFlag_stack (s : State) (x : Reg) (v : Byte) (f : Bool) : (s.resultThenFlag x v f).stack = s.stack := rfl
@[simp] theorem State.resultThenFlag_sp (s : State) (x : Reg) (v : Byte) (f : Bool) : (s.resultThenFlag x v f).sp = s.sp := rfl
@[simp] theorem State.resultThenFlag_fb (s : State) (x : Reg) (v : Byte) (f : Bool) : (s.resultThenFlag x v f).fb = s.fb := rfl
@[simp] theorem State.resultThenFlag_halted (s : State) (x : Reg) (v : Byte) (f : Bool) : (s.resultThenFlag x v f).halted = s.halted := rfl
@[simp] theorem State.resultThenFlag_cause (s : State) (x : Reg) (v : Byte) (f : Bool) : (s.resultThenFlag x v f).cause = s.cause := rfl
@[simp] theorem State.resultThenFlag_finfo (s : State) (x : Reg) (v : Byte) (f : Bool) : (s.resultThenFlag x v f).finfo = s.finfo := rfl
@[simp] theorem State.resultThenFlag_keys (s : State) (x : Reg) (v : Byte) (f : Bool) : (s.resultThenFlag x v f).keys = s.keys := rfl
@[simp] theorem State.resultThenFlag_rnd (s : State) (x : Reg) (v : Byte) (f : Bool) : (s.resultThenFlag x v f).rnd = s.rnd := rfl
@[simp] theorem State.resultThenFlag_pending (s : State) (x : Reg) (v : Byte) (f : Bool) : (s.resultThenFlag x v f).pending = s.pending := rfl
@[simp] theorem State.resultThenFlag_draws (s : State) (x : Reg) (v : Byte) (f : Bool) : (s.resultThenFlag x v f).draws = s.draws := rfl
@[simp] theorem State.resultThenFlag_readByte (s : State) (x : Reg) (v : Byte) (f : Bool) (p : Nat) : (s.resultThenFlag x v f).readByte p = s.readByte p := rfl
@[simp] theorem State.resultThenFlag_stackAt (s : State) (x : Reg) (v : Byte) (f : Bool) (m : BitVec 4) : (s.resultThenFlag x v f).stackAt m = s.stackAt m := rfl
@[simp] theorem State.resultThenFlag_fbGet (s : State) (x : Reg) (v : Byte) (f : Bool) (qx qy : Nat) : (s.resultThenFlag x v f).fbGet qx qy = s.fbGet qx qy := rfl

/-! #### flagThenResult -/

@[simp] theorem State.flagThenResult_idx (s : State) (x : Reg) (v : Byte) (f : Bool) : (s.flagThenResult x v f).idx = s.idx := rfl
@[simp] theorem State.flagThenResult_pc (s : State) (x : Reg) (v : Byte) (f : Bool) : (s.flagThenResult x v f).pc = s.pc := rfl
@[simp] theorem State.flagThenResult_dt (s : State) (x : Reg) (v : Byte) (f : Bool) : (s.flagThenResult x v f).dt = s.dt := rfl
@[simp] theorem State.flagThenResult_mem (s : State) (x : Reg) (v : Byte) (f : Bool) : (s.flagThenResult x v f).mem = s.mem := rfl
@[simp] theorem State.flagThenResult_stack (s : State) (x : Reg) (v : Byte) (f : Bool) : (s.flagThenResult x v f).stack = s.stack := rfl
@[simp] theorem State.flagThenResult_sp (s : State) (x : Reg) (v : Byte) (f : Bool) : (s.flagThenResult x v f).sp = s.sp := rfl
@[simp] theorem State.flagThenResult_fb (s : State) (x : Reg) (v : Byte) (f : Bool) : (s.flagThenResult x v f).fb = s.fb := rfl
@[simp] theorem State.flagThenResult_halted (s : State) (x : Reg) (v : Byte) (f : Bool) : (s.flagThenResult x v f).halted = s.halted := rfl
@[simp] theorem State.flagThenResult_cause (s : State) (x : Reg) (v : Byte) (f : Bool) : (s.flagThenResult x v f).cause = s.cause := rfl
@[simp] theorem State.flagThenResult_finfo (s : State) (x : Reg) (v : Byte) (f : Bool) : (s.flagThenResult x v f).finfo = s.finfo := rfl
@[simp] theorem State.flagThenResult_keys (s : State) (x : Reg) (v : Byte) (f : Bool) : (s.flagThenResult x v f).keys = s.keys := rfl
@[simp] theorem State.flagThenResult_rnd (s : State) (x : Reg) (v : Byte) (f : Bool) : (s.flagThenResult x v f).rnd = s.rnd := rfl
@[simp] theorem State.flagThenResult_pending (s : State) (x : Reg) (v : Byte) (f : Bool) : (s.flagThenResult x v f).pending = s.pending := rfl
@[simp] theorem State.flagThenResult_draws (s : State) (x : Reg) (v : Byte) (f : Bool) : (s.flagThenResult x v f).draws = s.draws := rfl
@[simp] theorem State.flagThenResult_readByte (s : State) (x : Reg) (v : Byte) (f : Bool) (p : Nat) : (s.flagThenResult x v f).readByte p = s.readByte p := rfl
@[simp] theorem State.flagThenResult_stackAt (s : State) (x : Reg) (v : Byte) (f : Bool) (m : BitVec 4) : (s.flagThenResult x v f).stackAt m = s.stackAt m := rfl
@[simp] theorem State.flagThenResult_fbGet (s : State) (x : Reg) (v : Byte) (f : Bool) (qx qy : Nat) : (s.flagThenResult x v f).fbGet qx qy = s.fbGet qx qy := rfl

/-! #### skipIf -/

@[simp] theorem State.skipIf_x (s : State) (b : Bool) : (s.skipIf b).x = s.x := rfl
@[simp] theorem State.skipIf_idx (s : State) (b : Bool) : (s.skipIf b).idx = s.idx := rfl
@[simp] theorem State.skipIf_pc (s : State) (b : Bool) : (s.skipIf b).pc = s.pc + (if b then 4 else 2) := rfl
@[simp] theorem State.skipIf_dt (s : State) (b : Bool) : (s.skipIf b).dt = s.dt := rfl
@[simp] theorem State.skipIf_mem (s : State) (b : Bool) : (s.skipIf b).mem = s.mem := rfl
@[simp] theorem State.skipIf_stack (s : State) (b : Bool) : (s.skipIf b).stack = s.stack := rfl
@[simp] theorem State.skipIf_sp (s : State) (b : Bool) : (s.skipIf b).sp = s.sp := rfl
@[simp] theorem State.skipIf_fb (s : State) (b : Bool) : (s.skipIf b).fb = s.fb := rfl
@[simp] theorem State.skipIf_halted (s : State) (b : Bool) : (s.skipIf b).halted = s.halted := rfl
@[simp] theorem State.skipIf_cause (s : State) (b : Bool) : (s.skipIf b).cause = s.cause := rfl
@[simp] theorem State.skipIf_finfo (s : State) (b : Bool) : (s.skipIf b).finfo = s.finfo := rfl
@[simp] theorem State.skipIf_keys (s : State) (b : Bool) : (s.skipIf b).keys = s.keys := rfl
@[simp] theorem State.skipIf_rnd (s : State) (b : Bool) : (s.skipIf b).rnd = s.rnd := rfl
@[simp] theorem State.skipIf_pending (s : State) (b : Bool) : (s.skipIf b).pending = s.pending := rfl
@[simp] theorem State.skipIf_draws (s : State) (b : Bool) : (s.skipIf b).draws = s.draws := rfl
@[simp] theorem State.skipIf_reg (s : State) (b : Bool) (j : Reg) : (s.skipIf b).reg j = s.reg j := rfl
@[simp] theorem State.skipIf_readByte (s : State) (b : Bool) (p : Nat) : (s.skipIf b).readByte p = s.readByte p := rfl
@[simp] theorem State.skipIf_stackAt (s : State) (b : Bool) (m : BitVec 4) : (s.skipIf b).stackAt m = s.stackAt m := rfl
@[simp] theorem State.skipIf_fbGet (s : State) (b : Bool) (qx qy : Nat) : (s.skipIf b).fbGet qx qy = s.fbGet qx qy := rfl

/-! #### passBlock -/

@[simp] theorem State.passBlock_x (s : State) (x : Reg) : (s.passBlock x).x = s.x := rfl
@[simp] theorem State.passBlock_idx (s : State) (x : Reg) : (s.passBlock x).idx = BitVec.ofNat 16 (s.idx.toNat + x.toNat + 1) := rfl
@[simp] theorem State.passBlock_pc (s : State) (x : Reg) : (s.passBlock x).pc = s.pc := rfl
@[simp] theorem State.passBlock_dt (s : State) (x : Reg) : (s.passBlock x).dt = s.dt := rfl
@[simp] theorem State.passBlock_mem (s : State) (x : Reg) : (s.passBlock x).mem = s.mem := rfl
@[simp] theorem State.passBlock_stack (s : State) (x : Reg) : (s.passBlock x).stack = s.stack := rfl
@[simp] theorem State.passBlock_sp (s : State) (x : Reg) : (s.passBlock x).sp = s.sp := rfl
@[simp] theorem State.passBlock_fb (s : State) (x : Reg) : (s.passBlock x).fb = s.fb := rfl
@[simp] theorem State.passBlock_halted (s : State) (x : Reg) : (s.passBlock x).halted = s.halted := rfl
@[simp] theorem State.passBlock_cause (s : State) (x : Reg) : (s.passBlock x).cause = s.cause := rfl
@[simp] theorem State.passBlock_finfo (s : State) (x : Reg) : (s.passBlock x).finfo = s.finfo := rfl
@[simp] theorem State.passBlock_keys (s : State) (x : Reg) : (s.passBlock x).keys = s.keys := rfl
@[simp] theorem State.passBlock_rnd (s : State) (x : Reg) : (s.passBlock x).rnd = s.rnd := rfl
@[simp] theorem State.passBlock_pending (s : State) (x : Reg) : (s.passBlock x).pending = s.pending := rfl
@[simp] theorem State.passBlock_draws (s : State) (x : Reg) : (s.passBlock x).draws = s.draws := rfl
@[simp] theorem State.passBlock_reg (s : State) (x : Reg) (j : Reg) : (s.passBlock x).reg j = s.reg j := rfl
@[simp] theorem State.passBlock_readByte (s : State) (x : Reg) (p : Nat) : (s.passBlock x).readByte p = s.readByte p := rfl
@[simp] theorem State.passBlock_stackAt (s : State) (x : Reg) (m : BitVec 4) : (s.passBlock x).stackAt m = s.stackAt m := rfl
@[simp] theorem State.passBlock_fbGet (s : State) (x : Reg) (qx qy : Nat) : (s.passBlock x).fbGet qx qy = s.fbGet qx qy := rfl

/-! #### storeBytes -/

@[simp] theorem State.storeBytes_x (s : State) (a : Nat) (bs : List Byte) : (s.storeBytes a bs).x = s.x := by
  induction bs generalizing s a with
  | nil => rfl
  | cons c cs ih => simp [State.storeBytes, ih]

@[simp] theorem State.storeBytes_idx (s : State) (a : Nat) (bs : List Byte) : (s.storeBytes a bs).idx = s.idx := by
  induction bs generalizing s a with
  | nil => rfl
  | cons c cs ih => simp [State.storeBytes, ih]

@[simp] theorem State.storeBytes_pc (s : State) (a : Nat) (bs : List Byte) : (s.storeBytes a bs).pc = s.pc := by
  induction bs generalizing s a with
  | nil => rfl
  | cons c cs ih => simp [State.storeBytes, ih]

@[simp] theorem State.storeBytes_dt (s : State) (a : Nat) (bs : List Byte) : (s.storeBytes a bs).dt = s.dt := by
  induction bs generalizing s a with
  | nil => rfl
  | cons c cs ih => simp [State.storeBytes, ih]

@[simp] theorem State.storeBytes_stack (s : State) (a : Nat) (bs : List Byte) : (s.storeBytes a bs).stack = s.stack := by
  induction bs generalizing s a with
  | nil => rfl
  | cons c cs ih => simp [State.storeBytes, ih]

@[simp] theorem State.storeBytes_sp (s : State) (a : Nat) (bs : List Byte) : (s.storeBytes a bs).sp = s.sp := by
  induction bs generalizing s a with
  | nil => rfl
  | cons c cs ih => simp [State.storeBytes, ih]

@[simp] theorem State.storeBytes_fb (s : State) (a : Nat) (bs : List Byte) : (s.storeBytes a bs).fb = s.fb := by
  induction bs generalizing s a with
  | nil => rfl
  | cons c cs ih => simp [State.storeBytes, ih]

@[simp] theorem State.storeBytes_halted (s : State) (a : Nat) (bs : List Byte) : (s.storeBytes a bs).halted = s.halted := by
  induction bs generalizing s a with
  | nil => rfl
  | cons c cs ih => simp [State.storeBytes, ih]

@[simp] theorem State.storeBytes_cause (s : State) (a : Nat) (bs : List Byte) : (s.storeBytes a bs).cause = s.cause := by
  induction bs generalizing s a with
  | nil => rfl
  | cons c cs ih => simp [State.storeBytes, ih]

@[simp] theorem State.storeBytes_finfo (s : State) (a : Nat) (bs : List Byte) : (s.storeBytes a bs).finfo = s.finfo := by
  induction bs generalizing s a with
  | nil => rfl
  | cons c cs ih => simp [State.storeBytes, ih]

@[simp] theorem State.storeBytes_keys (s : State) (a : Nat) (bs : List Byte) : (s.storeBytes a bs).keys = s.keys := by
  induction bs generalizing s a with
  | nil => rfl
  | cons c cs ih => simp [State.storeBytes, ih]

@[simp] theorem State.storeBytes_rnd (s : State) (a : Nat) (bs : List Byte) : (s.storeBytes a bs).rnd = s.rnd := by
  induction bs generalizing s a with
  | nil => rfl
  | cons c cs ih => simp [State.storeBytes, ih]

@[simp] theorem State.storeBytes_pending (s : State) (a : Nat) (bs : List Byte) : (s.storeBytes a bs).pending = s.pending := by
  induction bs generalizing s a with
  | nil => rfl
  | cons c cs ih => simp [State.storeBytes, ih]

@[simp] theorem State.storeBytes_draws (s : State) (a : Nat) (bs : List Byte) : (s.storeBytes a bs).draws = s.draws := by
  induction bs generalizing s a with
  | nil => rfl
  | cons c cs ih => simp [State.storeBytes, ih]

@[simp] theorem State.storeBytes_reg (s : State) (a : Nat) (bs : List Byte) (j : Reg) : (s.storeBytes a bs).reg j = s.reg j := by
  simp [State.reg]

@[simp] theorem State.storeBytes_stackAt (s : State) (a : Nat) (bs : List Byte) (m : BitVec 4) : (s.storeBytes a bs).stackAt m = s.stackAt m := by
  simp [State.stackAt]

@[simp] theorem State.storeBytes_fbGet (s : State) (a : Nat) (bs : List Byte) (qx qy : Nat) : (s.storeBytes a bs).fbGet qx qy = s.fbGet qx qy := by
  simp [State.fbGet, State.fbRow]

/-! #### setRegs -/

@[simp] theorem State.setRegs_idx (s : State) (k : Nat) (bs : List Byte) : (s.setRegs k bs).idx = s.idx := by
  induction bs generalizing s k with
  | nil => rfl
  | cons c cs ih => simp [State.setRegs, ih]

@[simp] theorem State.setRegs_pc (s : State) (k : Nat) (bs : List Byte) : (s.setRegs k bs).pc = s.pc := by
  induction bs generalizing s k with
  | nil => rfl
  | cons c cs ih => simp [State.setRegs, ih]

@[simp] theorem State.setRegs_dt (s : State) (k : Nat) (bs : List Byte) : (s.setRegs k bs).dt = s.dt := by
  induction bs generalizing s k with
  | nil => rfl
  | cons c cs ih => simp [State.setRegs, ih]

@[simp] theorem State.setRegs_mem (s : State) (k : Nat) (bs : List Byte) : (s.setRegs k bs).mem = s.mem := by
  induction bs generalizing s k with
  | nil => rfl
  | cons c cs ih => simp [State.setRegs, ih]

@[simp] theorem State.setRegs_stack (s : State) (k : Nat) (bs : List Byte) : (s.setRegs k bs).stack = s.stack := by
  induction bs generalizing s k with
  | nil => rfl
  | cons c cs ih => simp [State.setRegs, ih]

@[simp] theorem State.setRegs_sp (s : State) (k : Nat) (bs : List Byte) : (s.setRegs k bs).sp = s.sp := by
  induction bs generalizing s k with
  | nil => rfl
  | cons c cs ih => simp [State.setRegs, ih]

@[simp] theorem State.setRegs_fb (s : State) (k : Nat) (bs : List Byte) : (s.setRegs k bs).fb = s.fb := by
  induction bs generalizing s k with
  | nil => rfl
  | cons c cs ih => simp [State.setRegs, ih]

@[simp] theorem State.setRegs_halted (s : State) (k : Nat) (bs : List Byte) : (s.setRegs k bs).halted = s.halted := by
  induction bs generalizing s k with
  | nil => rfl
  | cons c cs ih => simp [State.setRegs, ih]

@[simp] theorem State.setRegs_cause (s : State) (k : Nat) (bs : List Byte) : (s.setRegs k bs).cause = s.cause := by
  induction bs generalizing s k with
  | nil => rfl
  | cons c cs ih => simp [State.setRegs, ih]

@[simp] theorem State.setRegs_finfo (s : State) (k : Nat) (bs : List Byte) : (s.setRegs k bs).finfo = s.finfo := by
  induction bs generalizing s k with
  | nil => rfl
  | cons c cs ih => simp [State.setRegs, ih]

@[simp] theorem State.setRegs_keys (s : State) (k : Nat) (bs : List Byte) : (s.setRegs k bs).keys = s.keys := by
  induction bs generalizing s k with
  | nil => rfl
  | cons c cs ih => simp [State.setRegs, ih]

@[simp] theorem State.setRegs_rnd (s : State) (k : Nat) (bs : List Byte) : (s.setRegs k bs).rnd = s.rnd := by
  induction bs generalizing s k with
  | nil => rfl
  | cons c cs ih => simp [State.setRegs, ih]

@[simp] theorem State.setRegs_pending (s : State) (k : Nat) (bs : List Byte) : (s.setRegs k bs).pending = s.pending := by
  induction bs generalizing s k with
  | nil => rfl
  | cons c cs ih => simp [State.setRegs, ih]

@[simp] theorem State.setRegs_draws (s : State) (k : Nat) (bs : List Byte) : (s.setRegs k bs).draws = s.draws := by
  induction bs generalizing s k with
  | nil => rfl
  | cons c cs ih => simp [State.setRegs, ih]

@[simp] theorem State.setRegs_readByte (s : State) (k : Nat) (bs : List Byte) (p : Nat) : (s.setRegs k bs).readByte p = s.readByte p := by
  simp [State.readByte]

@[simp] theorem State.setRegs_stackAt (s : State) (k : Nat) (bs : List Byte) (m : BitVec 4) : (s.setRegs k bs).stackAt m = s.stackAt m := by
  simp [State.stackAt]

@[simp] theorem State.setRegs_fbGet (s : State) (k : Nat) (bs : List Byte) (qx qy : Nat) : (s.setRegs k bs).fbGet qx qy = s.fbGet qx qy := by
  simp [State.fbGet, State.fbRow]

/-! #### skipOrStay, nextInputs and toggleCell: the branch does not matter to these fields -/

@[simp] theorem State.skipOrStay_x (s : State) (b : Bool) : (s.skipOrStay b).x = s.x := by cases b <;> rfl
@[simp] theorem State.skipOrStay_idx (s : State) (b : Bool) : (s.skipOrStay b).idx = s.idx := by cases b <;> rfl
@[simp] theorem State.skipOrStay_dt (s : State) (b : Bool) : (s.skipOrStay b).dt = s.dt := by cases b <;> rfl
@[simp] theorem State.skipOrStay_mem (s : State) (b : Bool) : (s.skipOrStay b).mem = s.mem := by cases b <;> rfl
@[simp] theorem State.skipOrStay_stack (s : State) (b : Bool) : (s.skipOrStay b).stack = s.stack := by cases b <;> rfl
@[simp] theorem State.skipOrStay_sp (s : State) (b : Bool) : (s.skipOrStay b).sp = s.sp := by cases b <;> rfl
@[simp] theorem State.skipOrStay_fb (s : State) (b : Bool) : (s.skipOrStay b).fb = s.fb := by cases b <;> rfl
@[simp] theorem State.skipOrStay_halted (s : State) (b : Bool) : (s.skipOrStay b).halted = s.halted := by cases b <;> rfl
@[simp] theorem State.skipOrStay_cause (s : State) (b : Bool) : (s.skipOrStay b).cause = s.cause := by cases b <;> rfl
@[simp] theorem State.skipOrStay_finfo (s : State) (b : Bool) : (s.skipOrStay b).finfo = s.finfo := by cases b <;> rfl
@[simp] theorem State.skipOrStay_keys (s : State) (b : Bool) : (s.skipOrStay b).keys = s.keys := by cases b <;> rfl
@[simp] theorem State.skipOrStay_rnd (s : State) (b : Bool) : (s.skipOrStay b).rnd = s.rnd := by cases b <;> rfl
@[simp] theorem State.skipOrStay_pending (s : State) (b : Bool) : (s.skipOrStay b).pending = s.pending := by cases b <;> rfl
@[simp] theorem State.skipOrStay_draws (s : State) (b : Bool) : (s.skipOrStay b).draws = s.draws := by cases b <;> rfl
@[simp] theorem State.skipOrStay_reg (s : State) (b : Bool) (j : Reg) : (s.skipOrStay b).reg j = s.reg j := by
  simp [State.reg]
@[simp] theorem State.skipOrStay_readByte (s : State) (b : Bool) (p : Nat) : (s.skipOrStay b).readByte p = s.readByte p := by
  simp [State.readByte]
@[simp] theorem State.skipOrStay_stackAt (s : State) (b : Bool) (m : BitVec 4) : (s.skipOrStay b).stackAt m = s.stackAt m := by
  simp [State.stackAt]
@[simp] theorem State.skipOrStay_fbGet (s : State) (b : Bool) (qx qy : Nat) : (s.skipOrStay b).fbGet qx qy = s.fbGet qx qy := by
  simp [State.fbGet, State.fbRow]

@[simp] theorem State.nextInputs_x (s : State) : (s.nextInputs).x = s.x := by unfold State.nextInputs; split <;> rfl
@[simp] theorem State.nextInputs_idx (s : State) : (s.nextInputs).idx = s.idx := by unfold State.nextInputs; split <;> rfl
@[simp] theorem State.nextInputs_pc (s : State) : (s.nextInputs).pc = s.pc := by unfold State.nextInputs; split <;> rfl
@[simp] theorem State.nextInputs_dt (s : State) : (s.nextInputs).dt = s.dt := by unfold State.nextInputs; split <;> rfl
@[simp] theorem State.nextInputs_mem (s : State) : (s.nextInputs).mem = s.mem := by unfold State.nextInputs; split <;> rfl
@[simp] theorem State.nextInputs_stack (s : State) : (s.nextInputs).stack = s.stack := by unfold State.nextInputs; split <;> rfl
@[simp] theorem State.nextInputs_sp (s : State) : (s.nextInputs).sp = s.sp := by unfold State.nextInputs; split <;> rfl
@[simp] theorem State.nextInputs_fb (s : State) : (s.nextInputs).fb = s.fb := by unfold State.nextInputs; split <;> rfl
@[simp] theorem State.nextInputs_halted (s : State) : (s.nextInputs).halted = s.halted := by unfold State.nextInputs; split <;> rfl
@[simp] theorem State.nextInputs_cause (s : State) : (s.nextInputs).cause = s.cause := by unfold State.nextInputs; split <;> rfl
@[simp] theorem State.nextInputs_finfo (s : State) : (s.nextInputs).finfo = s.finfo := by unfold State.nextInputs; split <;> rfl
@[simp] theorem State.nextInputs_reg (s : State) (j : Reg) : (s.nextInputs).reg j = s.reg j := by
  simp [State.reg]
@[simp] theorem State.nextInputs_readByte (s : State) (p : Nat) : (s.nextInputs).readByte p = s.readByte p := by
  simp [State.readByte]
@[simp] theorem State.nextInputs_stackAt (s : State) (m : BitVec 4) : (s.nextInputs).stackAt m = s.stackAt m := by
  simp [State.stackAt]
@[simp] theorem State.nextInputs_fbGet (s : State) (qx qy : Nat) : (s.nextInputs).fbGet qx qy = s.fbGet qx qy := by
  simp [State.fbGet, State.fbRow]

@[simp] theorem State.toggleCell_idx (s : State) (c : Nat × Nat) : (s.toggleCell c).idx = s.idx := by
  unfold State.toggleCell; split <;> rfl
@[simp] theorem State.toggleCell_pc (s : State) (c : Nat × Nat) : (s.toggleCell c).pc = s.pc := by
  unfold State.toggleCell; split <;> rfl
@[simp] theorem State.toggleCell_dt (s : State) (c : Nat × Nat) : (s.toggleCell c).dt = s.dt := by
  unfold State.toggleCell; split <;> rfl
@[simp] theorem State.toggleCell_mem (s : State) (c : Nat × Nat) : (s.toggleCell c).mem = s.mem := by
  unfold State.toggleCell; split <;> rfl
@[simp] theorem State.toggleCell_stack (s : State) (c : Nat × Nat) : (s.toggleCell c).stack = s.stack := by
  unfold State.toggleCell; split <;> rfl
@[simp] theorem State.toggleCell_sp (s : State) (c : Nat × Nat) : (s.toggleCell c).sp = s.sp := by
  unfold State.toggleCell; split <;> rfl
@[simp] theorem State.toggleCell_halted (s : State) (c : Nat × Nat) : (s.toggleCell c).halted = s.halted := by
  unfold State.toggleCell; split <;> rfl
@[simp] theorem State.toggleCell_cause (s : State) (c : Nat × Nat) : (s.toggleCell c).cause = s.cause := by
  unfold State.toggleCell; split <;> rfl
@[simp] theorem State.toggleCell_finfo (s : State) (c : Nat × Nat) : (s.toggleCell c).finfo = s.finfo := by
  unfold State.toggleCell; split <;> rfl
@[simp] theorem State.toggleCell_keys (s : State) (c : Nat × Nat) : (s.toggleCell c).keys = s.keys := by
  unfold State.toggleCell; split <;> rfl
@[simp] theorem State.toggleCell_rnd (s : State) (c : Nat × Nat) : (s.toggleCell c).rnd = s.rnd := by
  unfold State.toggleCell; split <;> rfl
@[simp] theorem State.toggleCell_pending (s : State) (c : Nat × Nat) : (s.toggleCell c).pending = s.pending := by
  unfold State.toggleCell; split <;> rfl
@[simp] theorem State.toggleCell_draws (s : State) (c : Nat × Nat) : (s.toggleCell c).draws = s.draws := by
  unfold State.toggleCell; split <;> rfl
@[simp] theorem State.toggleCell_readByte (s : State) (c : Nat × Nat) (p : Nat) : (s.toggleCell c).readByte p = s.readByte p := by
  simp [State.readByte]
@[simp] theorem State.toggleCell_stackAt (s : State) (c : Nat × Nat) (m : BitVec 4) : (s.toggleCell c).stackAt m = s.stackAt m := by
  simp [State.stackAt]

/-! #### drawCells -/

@[simp] theorem State.drawCells_idx (s : State) (cs : List (Nat × Nat)) : (s.drawCells cs).idx = s.idx := by
  unfold State.drawCells
  rw [foldl_toggle_field (·.idx) (fun u c => by simp)]; rfl

@[simp] theorem State.drawCells_pc (s : State) (cs : List (Nat × Nat)) : (s.drawCells cs).pc = s.pc := by
  unfold State.drawCells
  rw [foldl_toggle_field (·.pc) (fun u c => by simp)]; rfl

@[simp] theorem State.drawCells_dt (s : State) (cs : List (Nat × Nat)) : (s.drawCells cs).dt = s.dt := by
  unfold State.drawCells
  rw [foldl_toggle_field (·.dt) (fun u c => by simp)]; rfl

@[simp] theorem State.drawCells_mem (s : State) (cs : List (Nat × Nat)) : (s.drawCells cs).mem = s.mem := by
  unfold State.drawCells
  rw [foldl_toggle_field (·.mem) (fun u c => by simp)]; rfl

@[simp] theorem State.drawCells_stack (s : State) (cs : List (Nat × Nat)) : (s.drawCells cs).stack = s.stack := by
  unfold State.drawCells
  rw [foldl_toggle_field (·.stack) (fun u c => by simp)]; rfl

@[simp] theorem State.drawCells_sp (s : State) (cs : List (Nat × Nat)) : (s.drawCells cs).sp = s.sp := by
  unfold State.drawCells
  rw [foldl_toggle_field (·.sp) (fun u c => by simp)]; rfl

@[simp] theorem State.drawCells_halted (s : State) (cs : List (Nat × Nat)) : (s.drawCells cs).halted = s.halted := by
  unfold State.drawCells
  rw [foldl_toggle_field (·.halted) (fun u c => by simp)]; rfl

@[simp] theorem State.drawCells_cause (s : State) (cs : List (Nat × Nat)) : (s.drawCells cs).cause = s.cause := by
  unfold State.drawCells
  rw [foldl_toggle_field (·.cause) (fun u c => by simp)]; rfl

@[simp] theorem State.drawCells_finfo (s : State) (cs : List (Nat × Nat)) : (s.drawCells cs).finfo = s.finfo := by
  unfold State.drawCells
  rw [foldl_toggle_field (·.finfo) (fun u c => by simp)]; rfl

@[simp] theorem State.drawCells_keys (s : State) (cs : List (Nat × Nat)) : (s.drawCells cs).keys = s.keys := by
  unfold State.drawCells
  rw [foldl_toggle_field (·.keys) (fun u c => by simp)]; rfl

@[simp] theorem State.drawCells_rnd (s : State) (cs : List (Nat × Nat)) : (s.drawCells cs).rnd = s.rnd := by
  unfold State.drawCells
  rw [foldl_toggle_field (·.rnd) (fun u c => by simp)]; rfl

@[simp] theorem State.drawCells_pending (s : State) (cs : List (Nat × Nat)) : (s.drawCells cs).pending = s.pending := by
  unfold State.drawCells
  rw [foldl_toggle_field (·.pending) (fun u c => by simp)]; rfl

@[simp] theorem State.drawCells_draws (s : State) (cs : List (Nat × Nat)) : (s.drawCells cs).draws = s.draws := by
  unfold State.drawCells
  rw [foldl_toggle_field (·.draws) (fun u c => by simp)]; rfl

@[simp] theorem State.drawCells_readByte (s : State) (cs : List (Nat × Nat)) (p : Nat) : (s.drawCells cs).readByte p = s.readByte p := by
  simp [State.readByte]

@[simp] theorem State.drawCells_stackAt (s : State) (cs : List (Nat × Nat)) (m : BitVec 4) : (s.drawCells cs).stackAt m = s.stackAt m := by
  simp [State.stackAt]

end Sys2Proof.Machine
end

