-- ==== Sys2Proof/Laws/Memory.lean ====
section
/-! SUPPORT. Memory as data: a read after a write, and the canonical form that every operation keeps. -/

namespace Sys2Proof.Machine

/-! ### Reading what was written -/

theorem Memory.lookup_insert (m : Memory) (a b : Nat) (v : Byte) :
    Memory.lookup (Memory.insert m a v) b = if b = a then some v else Memory.lookup m b := by
  induction m with
  | nil => simp [Memory.insert, Memory.lookup]
  | cons c t ih =>
    obtain ⟨k, w⟩ := c
    simp only [Memory.insert]
    split
    · simp [Memory.lookup]
    · split
      · subst_vars; simp only [Memory.lookup]; split <;> rfl
      · simp only [Memory.lookup, ih]; split <;> split <;> simp_all

theorem Memory.lookup_erase (m : Memory) (a b : Nat) :
    Memory.lookup (Memory.erase m a) b = if b = a then none else Memory.lookup m b := by
  induction m with
  | nil => simp [Memory.erase, Memory.lookup]
  | cons c t ih =>
    obtain ⟨k, w⟩ := c
    simp only [Memory.erase]
    split
    · subst_vars; simp only [Memory.lookup, ih]; split <;> rfl
    · simp only [Memory.lookup, ih]; split <;> split <;> simp_all

/-- A read after a write: the byte written, and every other byte as before. -/
theorem Memory.read_write (m : Memory) (a b : Nat) (v : Byte) :
    Memory.read (Memory.write m a v) b = if b = a then v else Memory.read m b := by
  unfold Memory.write Memory.read
  split
  · rw [Memory.lookup_erase m a b]; split <;> simp_all
  · rw [Memory.lookup_insert m a b v]; split <;> simp_all

@[simp] theorem Memory.read_nil (a : Nat) : Memory.read [] a = Memory.initial a := rfl

/-! ### The canonical form -/

theorem Memory.mem_insert (m : Memory) (a : Nat) (v : Byte) (c : Host.Cell) (hc : c ∈ Memory.insert m a v) :
    c = (a, v) ∨ c ∈ m := by
  induction m with
  | nil => simpa [Memory.insert] using hc
  | cons d t ih =>
    obtain ⟨k, w⟩ := d
    simp only [Memory.insert] at hc
    split at hc
    · simpa using hc
    · split at hc
      · simp only [List.mem_cons] at hc ⊢; tauto
      · simp only [List.mem_cons] at hc ⊢
        rcases hc with hc | hc
        · tauto
        · rcases ih hc with h | h <;> tauto

theorem Memory.mem_erase (m : Memory) (a : Nat) (c : Host.Cell) (hc : c ∈ Memory.erase m a) : c ∈ m := by
  induction m with
  | nil => exact hc
  | cons d t ih =>
    obtain ⟨k, w⟩ := d
    simp only [Memory.erase] at hc
    split at hc
    · exact List.mem_cons_of_mem _ (ih hc)
    · rcases List.mem_cons.1 hc with h | h
      · simp [h]
      · exact List.mem_cons_of_mem _ (ih h)

/-- What a write lists was listed before, or is the byte written. -/
theorem Memory.mem_write (m : Memory) (a : Nat) (v : Byte) (c : Host.Cell) (hc : c ∈ Memory.write m a v) :
    c = (a, v) ∨ c ∈ m := by
  unfold Memory.write at hc
  split at hc
  · exact .inr (Memory.mem_erase m a c hc)
  · exact Memory.mem_insert m a v c hc

theorem Memory.insert_sorted (m : Memory) (a : Nat) (v : Byte) (h : m.Pairwise (fun c d => c.1 < d.1)) :
    (Memory.insert m a v).Pairwise (fun c d => c.1 < d.1) := by
  induction m with
  | nil => simp [Memory.insert]
  | cons d t ih =>
    obtain ⟨k, w⟩ := d
    obtain ⟨hk, ht⟩ := List.pairwise_cons.1 h
    simp only [Memory.insert]
    split
    · rename_i hak
      refine List.pairwise_cons.2 ⟨fun c hc => ?_, h⟩
      rcases List.mem_cons.1 hc with rfl | hc
      · exact hak
      · exact Nat.lt_trans hak (hk c hc)
    · split
      · subst_vars; exact List.pairwise_cons.2 ⟨hk, ht⟩
      · refine List.pairwise_cons.2 ⟨fun c hc => ?_, ih ht⟩
        rcases Memory.mem_insert t a v c hc with rfl | hc
        · simp only; omega
        · exact hk c hc

theorem Memory.erase_sorted (m : Memory) (a : Nat) (h : m.Pairwise (fun c d => c.1 < d.1)) :
    (Memory.erase m a).Pairwise (fun c d => c.1 < d.1) := by
  induction m with
  | nil => exact h
  | cons d t ih =>
    obtain ⟨k, w⟩ := d
    obtain ⟨hk, ht⟩ := List.pairwise_cons.1 h
    simp only [Memory.erase]
    split
    · exact ih ht
    · exact List.pairwise_cons.2 ⟨fun c hc => hk c (Memory.mem_erase t a c hc), ih ht⟩

/-- Every write keeps the canonical form. -/
theorem Memory.write_wf (m : Memory) (a : Nat) (v : Byte) (h : Memory.wf m) : Memory.wf (Memory.write m a v) := by
  unfold Memory.write
  split
  · exact ⟨Memory.erase_sorted m a h.1, fun c hc => h.2 c (Memory.mem_erase m a c hc)⟩
  · rename_i hv
    refine ⟨Memory.insert_sorted m a v h.1, fun c hc => ?_⟩
    rcases Memory.mem_insert m a v c hc with rfl | hc
    · exact hv
    · exact h.2 c hc

/-! ### Stores through the state -/

@[simp] theorem State.readByte_storeByte (s : State) (a b : Nat) (v : Byte) :
    (s.storeByte a v).readByte b = if b = a then v else s.readByte b :=
  Memory.read_write s.mem a b v

/-- A block store keeps the canonical form. -/
theorem State.storeBytes_wf (s : State) (a : Nat) (bs : List Byte) (h : Memory.wf s.mem) :
    Memory.wf (s.storeBytes a bs).mem := by
  induction bs generalizing s a with
  | nil => exact h
  | cons b bs ih => exact ih _ _ (Memory.write_wf s.mem a b h)

/-- A block store writes the block's bytes at `a` and upward, and nothing else. -/
theorem State.readByte_storeBytes (s : State) (a b : Nat) (bs : List Byte) :
    (s.storeBytes a bs).readByte b =
      if a ≤ b ∧ b < a + bs.length then bs.getD (b - a) 0 else s.readByte b := by
  induction bs generalizing s a with
  | nil => simp [State.storeBytes]
  | cons v bs ih =>
    rw [State.storeBytes, ih (s.storeByte a v) (a + 1), State.readByte_storeByte]
    by_cases hb : b = a
    · subst hb; simp
    · by_cases h1 : a + 1 ≤ b ∧ b < a + 1 + bs.length
      · rw [if_pos h1, if_pos (by simp only [List.length_cons]; omega)]
        obtain ⟨k, rfl⟩ : ∃ k, b = a + 1 + k := ⟨b - (a + 1), by omega⟩
        simp [show a + 1 + k - a = k + 1 by omega]
      · rw [if_neg h1, if_neg hb, if_neg (by simp only [List.length_cons]; omega)]

/-- What a block store lists was listed before, or lies in the block. -/
theorem State.mem_storeBytes (s : State) (a : Nat) (bs : List Byte) (c : Host.Cell)
    (hc : c ∈ (s.storeBytes a bs).mem) : c ∈ s.mem ∨ (a ≤ c.1 ∧ c.1 < a + bs.length) := by
  induction bs generalizing s a with
  | nil => exact .inl hc
  | cons b bs ih =>
    rcases ih (s.storeByte a b) (a + 1) hc with h | h
    · rcases Memory.mem_write s.mem a b c h with rfl | h
      · right; simp
      · exact .inl h
    · right; simp only [List.length_cons]; omega

/-! ### The reset contents -/

/-- At and above 0x200 memory is zero after reset, whatever `GLYPH_BASE` is (R38, R51). -/
@[simp] theorem Memory.initial_program (a : Nat) (h : 0x200 ≤ a) : Memory.initial a = 0 := by
  simp [Memory.initial, h]

/-- The glyph table lies at `GLYPH_BASE` (R62). -/
theorem Memory.initial_glyph (j : Nat) (h : j < 80) :
    Memory.initial (Config.glyphBase.val + j) = Config.glyphRom.getD j 0 := by
  have := Config.glyphBase.isLt
  unfold Memory.initial
  rw [if_neg (by simp only [Config.progBase]; omega), if_pos (by simp only [Config.glyphTableBytes]; omega)]
  simp

/-- The memory after reset is canonical. -/
theorem State.reset_mem_wf : Memory.wf State.reset.mem := by decide

end Sys2Proof.Machine
end

