-- ==== Sys2Proof/Laws/Registers.lean ====
section
/-! SUPPORT. Registers, call stack and framebuffer: reading what was written. -/

namespace Sys2Proof.Machine

/-! ### General registers -/

@[simp] theorem State.reg_setReg (s : State) (i j : Reg) (v : Byte) :
    (s.setReg i v).reg j = if j = i then v else s.reg j := by
  unfold State.reg State.setReg
  rw [Vector.getElem_set]
  by_cases h : j = i
  · subst h; simp
  · rw [if_neg (fun e => h (BitVec.eq_of_toNat_eq e.symm)), if_neg h]

@[simp] theorem State.reg_setFlag (s : State) (j : Reg) (b : Bool) :
    (s.setFlag b).reg j = if j = flagReg then flagByte b else s.reg j := State.reg_setReg s flagReg j _

@[simp] theorem State.reg_resultThenFlag (s : State) (x j : Reg) (v : Byte) (f : Bool) :
    (s.resultThenFlag x v f).reg j = if j = flagReg then flagByte f else if j = x then v else s.reg j := by
  simp [State.resultThenFlag]

@[simp] theorem State.reg_flagThenResult (s : State) (x j : Reg) (v : Byte) (f : Bool) :
    (s.flagThenResult x v f).reg j = if j = x then v else if j = flagReg then flagByte f else s.reg j := by
  simp [State.flagThenResult]

/-- A register block write: register `k + m` gets byte `m`, and every other register keeps its value. -/
theorem State.reg_setRegs (s : State) (k : Nat) (bs : List Byte) (j : Reg) (h : k + bs.length ≤ 16) :
    (s.setRegs k bs).reg j =
      if k ≤ j.toNat ∧ j.toNat < k + bs.length then bs.getD (j.toNat - k) 0 else s.reg j := by
  induction bs generalizing s k with
  | nil => simp [State.setRegs]
  | cons b bs ih =>
    simp only [List.length_cons] at h
    rw [State.setRegs, ih _ (k + 1) (by omega), State.reg_setReg]
    have hk : j = BitVec.ofNat 4 k ↔ j.toNat = k := by
      rw [← BitVec.toNat_inj, BitVec.toNat_ofNat, Nat.mod_eq_of_lt (by omega)]
    by_cases h1 : k + 1 ≤ j.toNat ∧ j.toNat < k + 1 + bs.length
    · rw [if_pos h1, if_pos (by simp only [List.length_cons]; omega)]
      obtain ⟨m, hm⟩ : ∃ m, j.toNat = k + 1 + m := ⟨j.toNat - (k + 1), by omega⟩
      simp [hm, show k + 1 + m - k = m + 1 by omega]
    · rw [if_neg h1]
      by_cases h2 : j.toNat = k
      · rw [if_pos (hk.2 h2), if_pos (by simp only [List.length_cons]; omega)]; simp [h2]
      · rw [if_neg (fun e => h2 (hk.1 e)), if_neg (by simp only [List.length_cons]; omega)]

/-! ### Call stack -/

@[simp] theorem State.stackAt_push (s : State) (a : Word) (k : BitVec 4) :
    (s.push a).stackAt k = if k = s.sp + 1 then a else s.stackAt k := by
  unfold State.stackAt State.push
  rw [Vector.getElem_set]
  by_cases h : k = s.sp + 1
  · subst h; simp
  · rw [if_neg (fun e => h (BitVec.eq_of_toNat_eq e.symm)), if_neg h]

/-! ### Framebuffer -/

@[simp] theorem State.fbGet_fbClear (s : State) (px py : Nat) : s.fbClear.fbGet px py = false := by
  simp only [State.fbGet, State.fbRow, State.fbClear, Vector.getElem?_replicate]
  split <;> simp

/-- Inside the grid a write changes its own cell and no other. -/
theorem State.fbGet_fbSet (s : State) (px py qx qy : Nat) (b : Bool) (hx : px < 64) (hy : py < 64) :
    (s.fbSet px py b).fbGet qx qy = if qx = px ∧ qy = py then b else s.fbGet qx qy := by
  unfold State.fbGet State.fbSet
  by_cases e : qy = py
  · subst e
    rw [State.fbRow, Vector.getElem?_setIfInBounds_self_of_lt hy, Option.getD_some]
    by_cases ex : qx = px
    · subst ex; cases b <;> simp [hx]
    · by_cases hq : qx < 64
      · cases b <;> simp [ex, hq]
      · have h : 64 ≤ qx := by omega
        simp only [ex, false_and, if_false]
        exact (BitVec.getLsbD_of_ge _ qx h).trans (BitVec.getLsbD_of_ge _ qx h).symm
  · simp [State.fbRow, Vector.getElem?_setIfInBounds_ne (Ne.symm e), e]

end Sys2Proof.Machine
end

