-- ==== Sys2Proof/Laws/Ops.lean ====
section
/-! SUPPORT. One lemma per shared operation that says everything it can do: the check pass and the commit pass, the
address checks, the operands, taking a fault, the inputs of a cycle. Callers cite these and do not unfold. -/

namespace Sys2Proof.Machine

/-! ### Check pass and commit pass (R192) -/

theorem firstFault_append (as bs : List (Option FaultReport)) :
    firstFault (as ++ bs) = (firstFault as).or (firstFault bs) := by
  induction as with
  | nil => rfl
  | cons a as ih => cases a with
    | none => exact ih
    | some f => rfl

@[simp] theorem firstFault_nil : firstFault [] = none := rfl

@[simp] theorem firstFault_single (c : Option FaultReport) : firstFault [c] = c := by cases c <;> rfl

/-- `checked` answers the raised state of the first failing check, or the committed state. -/
theorem checked_eq (s : State) (cs : List (Option FaultReport)) (t : State) :
    checked s cs t = .next ((firstFault cs).elim t s.raise) := by
  unfold checked; cases firstFault cs <;> rfl

theorem checked_cases {s t u : State} {cs : List (Option FaultReport)} (h : checked s cs t = .next u) :
    (∃ f, firstFault cs = some f ∧ u = s.raise f) ∨ (firstFault cs = none ∧ u = t) := by
  rw [checked_eq] at h
  cases hf : firstFault cs with
  | none => rw [hf] at h; injection h with h; exact .inr ⟨rfl, h.symm⟩
  | some f => rw [hf] at h; injection h with h; exact .inl ⟨f, rfl, h.symm⟩

/-! ### Address checks (R52, R53, R61) -/

theorem State.effAddrs_succ (s : State) (n : Nat) :
    s.effAddrs (n + 1) = s.effAddrs n ++ [s.idx.toNat + n] := by
  simp [State.effAddrs, List.range_succ, State.effAddr]

@[simp] theorem State.effAddrs_zero (s : State) : s.effAddrs 0 = [] := rfl

@[simp] theorem State.length_effAddrs (s : State) (n : Nat) : (s.effAddrs n).length = n := by
  simp [State.effAddrs]

/-- Reading `n` bytes at `I` and upward: the first address above 0xFFF is `I` itself or 0x1000. -/
theorem State.readChecks (s : State) (n : Nat) :
    firstFault ((s.effAddrs n).map memReadCheck) =
      if n = 0 ∨ s.idx.toNat + n ≤ 0x1000 then none
      else some ⟨.addressOutOfRange, if 0xFFF < s.idx.toNat then s.idx else 0x1000⟩ := by
  induction n with
  | zero => simp
  | succ n ih =>
    rw [State.effAddrs_succ, List.map_append, firstFault_append, ih]
    have hi := s.idx.isLt
    simp only [List.map_cons, List.map_nil, firstFault_single, memReadCheck]
    by_cases h0 : n = 0
    · subst h0
      by_cases h : 0xFFF < s.idx.toNat
      · simp [h, show ¬ s.idx.toNat + 1 ≤ 0x1000 by omega]
      · simp [h, show s.idx.toNat + 1 ≤ 0x1000 by omega]
    · by_cases h1 : s.idx.toNat + n ≤ 0x1000
      · rw [if_pos (.inr h1), Option.none_or]
        by_cases h2 : s.idx.toNat + n = 0x1000
        · rw [if_pos (by omega), if_neg (by omega), if_neg (by omega), h2]; rfl
        · rw [if_neg (by omega), if_pos (by omega)]
      · have e1 : ¬ (n = 0 ∨ s.idx.toNat + n ≤ 0x1000) := by omega
        have e2 : ¬ (n + 1 = 0 ∨ s.idx.toNat + (n + 1) ≤ 0x1000) := by omega
        rw [if_neg e1, if_neg e2]; rfl

/-- Writing `n` bytes at `I` and upward, at most 16: an address below 0x200 can only be met first at `I`. -/
theorem State.writeChecks (s : State) (n : Nat) (hn : 0 < n) :
    firstFault ((s.effAddrs n).map memWriteCheck) =
      if s.idx.toNat < 0x200 then some ⟨.writeProtect, s.idx⟩
      else if s.idx.toNat + n ≤ 0x1000 then none
      else some ⟨.addressOutOfRange, if 0xFFF < s.idx.toNat then s.idx else 0x1000⟩ := by
  induction n with
  | zero => omega
  | succ n ih =>
    rw [State.effAddrs_succ, List.map_append, firstFault_append]
    have hi := s.idx.isLt
    simp only [List.map_cons, List.map_nil, firstFault_single, memWriteCheck, Config.progBase]
    by_cases h0 : n = 0
    · subst h0
      by_cases hl : s.idx.toNat < 0x200
      · simp [hl]
      · by_cases h : 0xFFF < s.idx.toNat
        · simp [h, hl, show ¬ s.idx.toNat + 1 ≤ 0x1000 by omega]
        · simp [h, hl, show s.idx.toNat + 1 ≤ 0x1000 by omega]
    · rw [ih (by omega)]
      by_cases hl : s.idx.toNat < 0x200
      · simp [hl]
      · rw [if_neg hl, if_neg hl]
        by_cases h1 : s.idx.toNat + n ≤ 0x1000
        · rw [if_pos h1, Option.none_or, if_neg (by omega)]
          by_cases h2 : s.idx.toNat + n = 0x1000
          · rw [if_pos (by omega), if_neg (by omega), if_neg (by omega), h2]; rfl
          · rw [if_neg (by omega), if_pos (by omega)]
        · have e2 : ¬ s.idx.toNat + (n + 1) ≤ 0x1000 := by omega
          rw [if_neg h1, if_neg e2]; rfl

/-! ### Operands -/

@[simp] theorem zextAddr_toNat (nnn : Addr12) : (zextAddr nnn).toNat = nnn.toNat := by
  simp [zextAddr]; omega

@[simp] theorem zextByte_toNat (b : Byte) : (zextByte b).toNat = b.toNat := by
  simp [zextByte]; omega

theorem glyphAddr_toNat (d : Nat) (h : d ≤ 15) : (glyphAddr d).toNat = Config.glyphBase.val + 5 * d := by
  have := Config.glyphBase.isLt
  simp [glyphAddr]; omega

@[simp] theorem State.length_readBlock (s : State) (n : Nat) : (s.readBlock n).length = n := by
  simp [State.readBlock]

theorem State.getD_readBlock (s : State) (n k : Nat) (h : k < n) :
    (s.readBlock n).getD k 0 = s.readByte (s.idx.toNat + k) := by
  simp [State.readBlock, State.effAddrs, State.effAddr, h]

@[simp] theorem State.length_regBlock (s : State) (x : Reg) : (s.regBlock x).length = x.toNat + 1 := by
  simp [State.regBlock]

theorem State.getD_regBlock (s : State) (x : Reg) (k : Nat) (h : k ≤ x.toNat) :
    (s.regBlock x).getD k 0 = s.reg (BitVec.ofNat 4 k) := by
  simp [State.regBlock, show k < x.toNat + 1 by omega]

/-- The keypad scan answers the least pressed key. -/
theorem lowestKey_some (keys : BitVec 16) (k : Nat) :
    lowestKey keys = some k ↔ keys.getLsbD k = true ∧ k < 16 ∧ ∀ j < k, keys.getLsbD j = false := by
  unfold lowestKey
  rw [List.find?_range_eq_some]
  simp

/-- The keypad scan answers nothing exactly when no key is pressed. -/
theorem lowestKey_none (keys : BitVec 16) : lowestKey keys = none ↔ ∀ k, keys.getLsbD k = false := by
  unfold lowestKey
  rw [List.find?_eq_none]
  constructor
  · intro h k
    by_cases hk : k < 16
    · simpa using h k (by simpa using hk)
    · exact BitVec.getLsbD_of_ge keys k (by omega)
  · intro h k _; simp [h k]

/-! ### Arithmetic and flags (R39, R150) -/

theorem addBytes_eq (a b : Byte) : addBytes a b = a + b := by
  apply BitVec.eq_of_toNat_eq; simp [addBytes]

theorem subBytes_eq (a b : Byte) : subBytes a b = a - b := by
  apply BitVec.eq_of_toNat_eq
  simp only [subBytes, exactDiff, BitVec.toNat_ofInt, BitVec.toNat_sub]
  omega

theorem borrowOut_eq (a b : Byte) : borrowOut a b = decide (a.toNat < b.toNat) := by
  simp [borrowOut, exactDiff]

@[simp] theorem flagByte_toNat (b : Bool) : (flagByte b).toNat = if b then 1 else 0 := by cases b <;> rfl

/-! ### The inputs of a cycle (R35) -/

/-- The end of a cycle changes nothing but the inputs. -/
theorem State.nextInputs_kept (s : State) : KeptExcept s s.nextInputs [.inputs] := by
  intro p hp
  cases p <;> simp_all [Kept]

@[simp] theorem endCycle_next (s : State) : endCycle (.next s) = .next s.nextInputs := rfl

theorem endCycle_cases {o : Host.Outcome State Fault Refusal} {t : State} (h : endCycle o = .next t) :
    ∃ u, o = .next u ∧ t = u.nextInputs := by
  cases o with
  | next u => injection h with h; exact ⟨u, rfl, h.symm⟩
  | fault f => cases f
  | refused r => cases h

/-! ### Other inputs -/

@[simp] theorem State.withInputs_x (s : State) (k : BitVec 16) (r : Byte) : (s.withInputs k r).x = s.x := rfl
@[simp] theorem State.withInputs_idx (s : State) (k : BitVec 16) (r : Byte) : (s.withInputs k r).idx = s.idx := rfl
@[simp] theorem State.withInputs_pc (s : State) (k : BitVec 16) (r : Byte) : (s.withInputs k r).pc = s.pc := rfl
@[simp] theorem State.withInputs_dt (s : State) (k : BitVec 16) (r : Byte) : (s.withInputs k r).dt = s.dt := rfl
@[simp] theorem State.withInputs_mem (s : State) (k : BitVec 16) (r : Byte) : (s.withInputs k r).mem = s.mem := rfl
@[simp] theorem State.withInputs_stack (s : State) (k : BitVec 16) (r : Byte) : (s.withInputs k r).stack = s.stack := rfl
@[simp] theorem State.withInputs_sp (s : State) (k : BitVec 16) (r : Byte) : (s.withInputs k r).sp = s.sp := rfl
@[simp] theorem State.withInputs_fb (s : State) (k : BitVec 16) (r : Byte) : (s.withInputs k r).fb = s.fb := rfl
@[simp] theorem State.withInputs_halted (s : State) (k : BitVec 16) (r : Byte) : (s.withInputs k r).halted = s.halted := rfl
@[simp] theorem State.withInputs_cause (s : State) (k : BitVec 16) (r : Byte) : (s.withInputs k r).cause = s.cause := rfl
@[simp] theorem State.withInputs_finfo (s : State) (k : BitVec 16) (r : Byte) : (s.withInputs k r).finfo = s.finfo := rfl
@[simp] theorem State.withInputs_pending (s : State) (k : BitVec 16) (r : Byte) : (s.withInputs k r).pending = s.pending := rfl
@[simp] theorem State.withInputs_draws (s : State) (k : BitVec 16) (r : Byte) : (s.withInputs k r).draws = s.draws := rfl
@[simp] theorem State.withInputs_keys (s : State) (k : BitVec 16) (r : Byte) : (s.withInputs k r).keys = k := rfl
@[simp] theorem State.withInputs_rnd (s : State) (k : BitVec 16) (r : Byte) : (s.withInputs k r).rnd = r := rfl
@[simp] theorem State.withInputs_reg (s : State) (k : BitVec 16) (r : Byte) (i : Reg) :
    (s.withInputs k r).reg i = s.reg i := rfl
@[simp] theorem State.withInputs_readByte (s : State) (k : BitVec 16) (r : Byte) (a : Nat) :
    (s.withInputs k r).readByte a = s.readByte a := rfl
@[simp] theorem State.withInputs_readWord (s : State) (k : BitVec 16) (r : Byte) (a : Nat) :
    (s.withInputs k r).readWord a = s.readWord a := rfl
@[simp] theorem State.withInputs_stackAt (s : State) (k : BitVec 16) (r : Byte) (m : BitVec 4) :
    (s.withInputs k r).stackAt m = s.stackAt m := rfl
@[simp] theorem State.withInputs_fbGet (s : State) (k : BitVec 16) (r : Byte) (px py : Nat) :
    (s.withInputs k r).fbGet px py = s.fbGet px py := rfl

/-- Presenting other inputs changes nothing but the inputs. -/
theorem State.withInputs_kept (s : State) (k : BitVec 16) (r : Byte) : KeptExcept s (s.withInputs k r) [.inputs] := by
  intro p hp
  cases p <;> simp_all [Kept]

/-! ### Taking a fault (R191) -/

/-- `raise` writes the latch and nothing else. -/
theorem State.raise_faulted (s : State) (f : FaultReport) : Faulted s (s.raise f) f.cause.code f.info := by
  refine ⟨rfl, rfl, rfl, fun p hp => ?_⟩
  cases p <;> simp_all [Kept]

/-- Every code is 1 to 10, and 10 is the reserved one (R194, R208). -/
theorem Cause.code_range (c : Cause) (h : c ≠ .registerIndexOutOfRange) :
    1 ≤ c.code.toNat ∧ c.code.toNat ≤ 9 := by
  cases c <;> first | exact absurd rfl h | decide

end Sys2Proof.Machine
end

