-- ==== Sys2Proof/Laws/Draw.lean ====
section
/-! SUPPORT. The sprite draw: which cells a sprite targets, and what toggling a list of distinct cells inside the grid
does to the framebuffer and to the flag (R160, R161). -/

namespace Sys2Proof.Machine

/-! ### The targeted cells -/

theorem mem_rowCells (vx py : Nat) (row : Byte) (p : Nat × Nat) :
    p ∈ rowCells vx py row ↔ p.2 = py ∧ vx ≤ p.1 ∧ p.1 < vx + 8 ∧ row.getLsbD (7 - (p.1 - vx)) = true := by
  obtain ⟨a, b⟩ := p
  simp only [rowCells, List.mem_map, List.mem_filter, List.mem_range, Prod.mk.injEq]
  constructor
  · rintro ⟨c, ⟨hc, hb⟩, rfl, rfl⟩
    exact ⟨rfl, by omega, by omega, by simpa using hb⟩
  · rintro ⟨rfl, h1, h2, h3⟩
    exact ⟨a - vx, ⟨by omega, h3⟩, by omega, rfl⟩

/-- A sprite targets a cell exactly when the cell's row holds a set bit at the cell's column. -/
theorem mem_spriteCells (vx vy : Nat) (rows : List Byte) (p : Nat × Nat) :
    p ∈ spriteCells vx vy rows ↔ vy ≤ p.2 ∧ p.2 < vy + rows.length ∧ vx ≤ p.1 ∧ p.1 < vx + 8 ∧
      (rows.getD (p.2 - vy) 0).getLsbD (7 - (p.1 - vx)) = true := by
  induction rows generalizing vy with
  | nil => simp [spriteCells]
  | cons row rows ih =>
    rw [spriteCells, List.mem_append, mem_rowCells, ih (vy + 1), List.length_cons]
    by_cases h : p.2 = vy
    · simp [h]
    · by_cases h1 : vy + 1 ≤ p.2
      · have e : p.2 - vy = (p.2 - (vy + 1)) + 1 := by omega
        rw [e, List.getD_cons_succ]
        constructor
        · rintro (h2 | ⟨h2, h3, h4⟩)
          · omega
          · exact ⟨by omega, by omega, h4⟩
        · rintro ⟨_, h3, h4⟩
          exact .inr ⟨h1, by omega, h4⟩
      · constructor
        · rintro (h2 | h2) <;> omega
        · rintro ⟨h2, _⟩; omega

theorem rowCells_nodup (vx py : Nat) (row : Byte) : (rowCells vx py row).Nodup := by
  refine List.Nodup.map (fun a b h => ?_) (List.Nodup.filter _ List.nodup_range)
  simpa using h

/-- Distinct bits of a sprite target distinct cells (R160). -/
theorem spriteCells_nodup (vx vy : Nat) (rows : List Byte) : (spriteCells vx vy rows).Nodup := by
  induction rows generalizing vy with
  | nil => exact List.nodup_nil
  | cons row rows ih =>
    refine List.Nodup.append (rowCells_nodup vx vy row) (ih (vy + 1)) (fun p h1 h2 => ?_)
    have := ((mem_rowCells vx vy row p).1 h1).1
    have := ((mem_spriteCells vx (vy + 1) rows p).1 h2).1
    omega

/-- The cells DRW draws are those its sprite hits. -/
theorem State.mem_drawTargets (s : State) (x y : Reg) (n : BitVec 4) (px py : Nat) :
    (px, py) ∈ s.drawTargets x y n ↔ s.drawHits x y n px py = true := by
  rw [State.drawTargets, mem_spriteCells, State.length_readBlock]
  simp only [State.drawHits, State.spriteHits, Bool.and_eq_true, decide_eq_true_eq]
  constructor
  · rintro ⟨h1, h2, h3, h4, h5⟩
    rw [State.getD_readBlock _ _ _ (by omega)] at h5
    exact ⟨⟨h3, h4, h1, h2⟩, h5⟩
  · rintro ⟨⟨h3, h4, h1, h2⟩, h5⟩
    rw [State.getD_readBlock _ _ _ (by omega)]
    exact ⟨h1, h2, h3, h4, h5⟩

theorem outsideGrid_false (c : Nat × Nat) : outsideGrid c = false ↔ c.1 < 64 ∧ c.2 < 64 := by
  simp [outsideGrid]; omega

/-- The coordinate check fails exactly when some targeted cell lies outside the grid (R162). -/
theorem gridCheck_none (vx vy : Byte) (cells : List (Nat × Nat)) :
    gridCheck vx vy cells = none ↔ ∀ c ∈ cells, c.1 < 64 ∧ c.2 < 64 := by
  unfold gridCheck
  by_cases h : cells.any outsideGrid = true
  · rw [if_pos h]
    obtain ⟨c, hc, ho⟩ := List.any_eq_true.1 h
    simp only [reduceCtorEq, false_iff]
    intro h2
    rw [(outsideGrid_false c).2 (h2 c hc)] at ho
    exact Bool.noConfusion ho
  · rw [if_neg h]
    simp only [true_iff]
    intro c hc
    refine (outsideGrid_false c).1 ?_
    by_contra ho
    exact h (List.any_eq_true.2 ⟨c, hc, by simpa using ho⟩)

/-! ### Toggling -/

theorem State.fbGet_toggleCell (s : State) (c : Nat × Nat) (qx qy : Nat) (hx : c.1 < 64) (hy : c.2 < 64) :
    (s.toggleCell c).fbGet qx qy = (s.fbGet qx qy ^^ decide ((qx, qy) = c)) := by
  obtain ⟨a, b⟩ := c
  unfold State.toggleCell
  rw [State.fbGet_fbSet _ _ _ _ _ _ hx hy]
  by_cases h : qx = a ∧ qy = b
  · obtain ⟨rfl, rfl⟩ := h; simp
  · rw [if_neg h]
    have : ¬ (qx, qy) = (a, b) := by simpa using h
    split <;> simp [this]

@[simp] theorem State.reg_toggleCell (s : State) (c : Nat × Nat) (j : Reg) :
    (s.toggleCell c).reg j = if j = flagReg ∧ s.fbGet c.1 c.2 = true then 1 else s.reg j := by
  unfold State.toggleCell
  by_cases h : s.fbGet c.1 c.2 = true
  · simp only [h, if_true, State.fbSet_reg, State.reg_setFlag, and_true]; rfl
  · simp [h]

theorem State.fbGet_toggles (s : State) (cs : List (Nat × Nat)) (qx qy : Nat) (nd : cs.Nodup)
    (hg : ∀ c ∈ cs, c.1 < 64 ∧ c.2 < 64) :
    (cs.foldl State.toggleCell s).fbGet qx qy = (s.fbGet qx qy ^^ decide ((qx, qy) ∈ cs)) := by
  induction cs generalizing s with
  | nil => simp
  | cons c cs ih =>
    obtain ⟨hn, nd⟩ := List.nodup_cons.1 nd
    have hc := hg c (by simp)
    rw [List.foldl_cons, ih _ nd (fun d hd => hg d (by simp [hd])), State.fbGet_toggleCell _ _ _ _ hc.1 hc.2]
    by_cases h : (qx, qy) = c
    · subst h; simp [hn]
    · simp [h]

/-- The flag after the toggles: 1 if some targeted cell was on before, else as it was; no other register changes. -/
theorem State.reg_toggles (s : State) (cs : List (Nat × Nat)) (j : Reg) (nd : cs.Nodup)
    (hg : ∀ c ∈ cs, c.1 < 64 ∧ c.2 < 64) :
    (cs.foldl State.toggleCell s).reg j =
      if j = flagReg ∧ cs.any (fun c => s.fbGet c.1 c.2) = true then 1 else s.reg j := by
  induction cs generalizing s with
  | nil => simp
  | cons c cs ih =>
    obtain ⟨hn, nd⟩ := List.nodup_cons.1 nd
    have hc := hg c (by simp)
    have same : cs.any (fun d => (s.toggleCell c).fbGet d.1 d.2) = cs.any (fun d => s.fbGet d.1 d.2) := by
      rw [Bool.eq_iff_iff, List.any_eq_true, List.any_eq_true]
      refine exists_congr fun d => and_congr_right fun hd => ?_
      have ne : (d.1, d.2) ≠ c := fun e => hn (e ▸ hd)
      rw [State.fbGet_toggleCell _ _ _ _ hc.1 hc.2, decide_eq_false ne, Bool.xor_false]
    rw [List.foldl_cons, ih _ nd (fun d hd => hg d (by simp [hd])), same, State.reg_toggleCell]
    by_cases hj : j = flagReg
    · subst hj
      cases h1 : s.fbGet c.1 c.2 <;> cases h2 : cs.any (fun d => s.fbGet d.1 d.2) <;>
        simp [List.any_cons, h1, h2]
    · simp [hj]

/-- Drawing distinct cells inside the grid toggles exactly those cells (R160). -/
theorem State.fbGet_drawCells (s : State) (cs : List (Nat × Nat)) (qx qy : Nat) (nd : cs.Nodup)
    (hg : ∀ c ∈ cs, c.1 < 64 ∧ c.2 < 64) :
    (s.drawCells cs).fbGet qx qy = (s.fbGet qx qy ^^ decide ((qx, qy) ∈ cs)) := by
  rw [State.drawCells, State.fbGet_toggles _ _ _ _ nd hg, State.setFlag_fbGet]

/-- After drawing, the flag is 1 exactly when some drawn cell was on before; no other register changes (R161). -/
theorem State.reg_drawCells (s : State) (cs : List (Nat × Nat)) (j : Reg) (nd : cs.Nodup)
    (hg : ∀ c ∈ cs, c.1 < 64 ∧ c.2 < 64) :
    (s.drawCells cs).reg j =
      if j = flagReg then flagByte (cs.any (fun c => s.fbGet c.1 c.2)) else s.reg j := by
  rw [State.drawCells, State.reg_toggles _ _ _ nd hg]
  simp only [State.setFlag_fbGet, State.reg_setFlag]
  by_cases hj : j = flagReg
  · subst hj; cases cs.any (fun c => s.fbGet c.1 c.2) <;> rfl
  · simp [hj]

end Sys2Proof.Machine
end

