-- ==== Sys2Proof/Laws/PerInstr.lean ====
section
/-! SUPPORT. Statements made per instruction (LAWS.json): every instruction is well-formed (R91: "the check can never
fail"), and its canonical word lies in its own row of the opcode table. -/

namespace Sys2Proof

/-! ### Well-formedness (R83, R91) -/

@[simp] theorem regIndexOk_toNat (x : Reg) : regIndexOk x.toNat = true := by
  simp [regIndexOk]; omega

@[simp] theorem addrOperandOk_toNat (a : Addr12) : addrOperandOk a.toNat = true := by
  simp [addrOperandOk]; omega

@[simp] theorem byteOperandOk_toNat (b : Byte) : byteOperandOk b.toNat = true := by
  simp [byteOperandOk]; omega

@[simp] theorem heightOperandOk_toNat (n : BitVec 4) : heightOperandOk n.toNat = true := by
  simp [heightOperandOk]; omega

/-- The instruction passes every operand check. -/
def Laws.WellFormed.Statement (i : Instr) : Prop := i.wellFormed = true

theorem Laws.WellFormed.cls : Laws.WellFormed.Statement .cls := by
  simp [Laws.WellFormed.Statement, Instr.wellFormed]

theorem Laws.WellFormed.ret : Laws.WellFormed.Statement .ret := by
  simp [Laws.WellFormed.Statement, Instr.wellFormed]

theorem Laws.WellFormed.jp (nnn : Addr12) : Laws.WellFormed.Statement (.jp nnn) := by
  simp [Laws.WellFormed.Statement, Instr.wellFormed]

theorem Laws.WellFormed.call (nnn : Addr12) : Laws.WellFormed.Statement (.call nnn) := by
  simp [Laws.WellFormed.Statement, Instr.wellFormed]

theorem Laws.WellFormed.seImm (x : Reg) (kk : Byte) : Laws.WellFormed.Statement (.seImm x kk) := by
  simp [Laws.WellFormed.Statement, Instr.wellFormed]

theorem Laws.WellFormed.sneImm (x : Reg) (kk : Byte) : Laws.WellFormed.Statement (.sneImm x kk) := by
  simp [Laws.WellFormed.Statement, Instr.wellFormed]

theorem Laws.WellFormed.seReg (x : Reg) (y : Reg) : Laws.WellFormed.Statement (.seReg x y) := by
  simp [Laws.WellFormed.Statement, Instr.wellFormed]

theorem Laws.WellFormed.ldImm (x : Reg) (kk : Byte) : Laws.WellFormed.Statement (.ldImm x kk) := by
  simp [Laws.WellFormed.Statement, Instr.wellFormed]

theorem Laws.WellFormed.addImm (x : Reg) (kk : Byte) : Laws.WellFormed.Statement (.addImm x kk) := by
  simp [Laws.WellFormed.Statement, Instr.wellFormed]

theorem Laws.WellFormed.ldReg (x : Reg) (y : Reg) : Laws.WellFormed.Statement (.ldReg x y) := by
  simp [Laws.WellFormed.Statement, Instr.wellFormed]

theorem Laws.WellFormed.orReg (x : Reg) (y : Reg) : Laws.WellFormed.Statement (.orReg x y) := by
  simp [Laws.WellFormed.Statement, Instr.wellFormed]

theorem Laws.WellFormed.andReg (x : Reg) (y : Reg) : Laws.WellFormed.Statement (.andReg x y) := by
  simp [Laws.WellFormed.Statement, Instr.wellFormed]

theorem Laws.WellFormed.xorReg (x : Reg) (y : Reg) : Laws.WellFormed.Statement (.xorReg x y) := by
  simp [Laws.WellFormed.Statement, Instr.wellFormed]

theorem Laws.WellFormed.addReg (x : Reg) (y : Reg) : Laws.WellFormed.Statement (.addReg x y) := by
  simp [Laws.WellFormed.Statement, Instr.wellFormed]

theorem Laws.WellFormed.subReg (x : Reg) (y : Reg) : Laws.WellFormed.Statement (.subReg x y) := by
  simp [Laws.WellFormed.Statement, Instr.wellFormed]

theorem Laws.WellFormed.shr (x : Reg) : Laws.WellFormed.Statement (.shr x) := by
  simp [Laws.WellFormed.Statement, Instr.wellFormed]

theorem Laws.WellFormed.subnReg (x : Reg) (y : Reg) : Laws.WellFormed.Statement (.subnReg x y) := by
  simp [Laws.WellFormed.Statement, Instr.wellFormed]

theorem Laws.WellFormed.shl (x : Reg) : Laws.WellFormed.Statement (.shl x) := by
  simp [Laws.WellFormed.Statement, Instr.wellFormed]

theorem Laws.WellFormed.sneReg (x : Reg) (y : Reg) : Laws.WellFormed.Statement (.sneReg x y) := by
  simp [Laws.WellFormed.Statement, Instr.wellFormed]

theorem Laws.WellFormed.ldI (nnn : Addr12) : Laws.WellFormed.Statement (.ldI nnn) := by
  simp [Laws.WellFormed.Statement, Instr.wellFormed]

theorem Laws.WellFormed.jpV0 (nnn : Addr12) : Laws.WellFormed.Statement (.jpV0 nnn) := by
  simp [Laws.WellFormed.Statement, Instr.wellFormed]

theorem Laws.WellFormed.rnd (x : Reg) (kk : Byte) : Laws.WellFormed.Statement (.rnd x kk) := by
  simp [Laws.WellFormed.Statement, Instr.wellFormed]

theorem Laws.WellFormed.drw (x : Reg) (y : Reg) (n : BitVec 4) : Laws.WellFormed.Statement (.drw x y n) := by
  simp [Laws.WellFormed.Statement, Instr.wellFormed]

theorem Laws.WellFormed.skp (x : Reg) : Laws.WellFormed.Statement (.skp x) := by
  simp [Laws.WellFormed.Statement, Instr.wellFormed]

theorem Laws.WellFormed.sknp (x : Reg) : Laws.WellFormed.Statement (.sknp x) := by
  simp [Laws.WellFormed.Statement, Instr.wellFormed]

theorem Laws.WellFormed.ldVxDt (x : Reg) : Laws.WellFormed.Statement (.ldVxDt x) := by
  simp [Laws.WellFormed.Statement, Instr.wellFormed]

theorem Laws.WellFormed.ldVxK (x : Reg) : Laws.WellFormed.Statement (.ldVxK x) := by
  simp [Laws.WellFormed.Statement, Instr.wellFormed]

theorem Laws.WellFormed.ldDtVx (x : Reg) : Laws.WellFormed.Statement (.ldDtVx x) := by
  simp [Laws.WellFormed.Statement, Instr.wellFormed]

theorem Laws.WellFormed.addI (x : Reg) : Laws.WellFormed.Statement (.addI x) := by
  simp [Laws.WellFormed.Statement, Instr.wellFormed]

theorem Laws.WellFormed.ldF (x : Reg) : Laws.WellFormed.Statement (.ldF x) := by
  simp [Laws.WellFormed.Statement, Instr.wellFormed]

theorem Laws.WellFormed.ldB (x : Reg) : Laws.WellFormed.Statement (.ldB x) := by
  simp [Laws.WellFormed.Statement, Instr.wellFormed]

theorem Laws.WellFormed.storeRegs (x : Reg) : Laws.WellFormed.Statement (.storeRegs x) := by
  simp [Laws.WellFormed.Statement, Instr.wellFormed]

theorem Laws.WellFormed.loadRegs (x : Reg) : Laws.WellFormed.Statement (.loadRegs x) := by
  simp [Laws.WellFormed.Statement, Instr.wellFormed]

/-! ### The opcode table -/

/-- A word of format ADDR lies in the row of its family. -/
theorem mask_addr (f : BitVec 4) (nnn : Addr12) : (f ++ nnn) &&& 0xF000#16 = f ++ 0x000#12 := by
  have e : (0xF000#16 : Word) = 0xF#4 ++ 0x000#12 := rfl
  have hf : f &&& 0xF#4 = f := BitVec.and_allOnes
  have hn : nnn &&& 0x000#12 = 0x000#12 := BitVec.and_zero
  rw [e, BitVec.and_append, hf, hn]

/-- A word of format XKK or XSUB keeps its family and what the byte mask keeps of its low byte. -/
theorem mask_xkk (f : BitVec 4) (x : Reg) (kk m : Byte) :
    (f ++ x ++ kk) &&& (0xF#4 ++ 0x0#4 ++ m) = f ++ 0x0#4 ++ (kk &&& m) := by
  have hf : f &&& 0xF#4 = f := BitVec.and_allOnes
  have hx : x &&& 0x0#4 = 0x0#4 := BitVec.and_zero
  rw [BitVec.and_append, BitVec.and_append, hf, hx]

/-- A word of format XY or XYN keeps its family and what the nibble mask keeps of its low nibble. -/
theorem mask_xyn (f : BitVec 4) (x y : Reg) (n m : BitVec 4) :
    (f ++ x ++ y ++ n) &&& (0xF#4 ++ 0x0#4 ++ 0x0#4 ++ m) = f ++ 0x0#4 ++ 0x0#4 ++ (n &&& m) := by
  have hf : f &&& 0xF#4 = f := BitVec.and_allOnes
  have hx : x &&& 0x0#4 = 0x0#4 := BitVec.and_zero
  have hy : y &&& 0x0#4 = 0x0#4 := BitVec.and_zero
  rw [BitVec.and_append, BitVec.and_append, BitVec.and_append, hf, hx, hy]

/-- The row of spec/opcode_table.json that an instruction stands for. -/
def Instr.row : Instr → OpcodeRow
  | .cls => ⟨"CLS", 0x00E0, 0xFFFF⟩
  | .ret => ⟨"RET", 0x00EE, 0xFFFF⟩
  | .jp _ => ⟨"JP_nnn", 0x1000, 0xF000⟩
  | .call _ => ⟨"CALL_nnn", 0x2000, 0xF000⟩
  | .seImm _ _ => ⟨"SE_Vx_kk", 0x3000, 0xF000⟩
  | .sneImm _ _ => ⟨"SNE_Vx_kk", 0x4000, 0xF000⟩
  | .seReg _ _ => ⟨"SE_Vx_Vy", 0x5000, 0xF000⟩
  | .ldImm _ _ => ⟨"LD_Vx_kk", 0x6000, 0xF000⟩
  | .addImm _ _ => ⟨"ADD_Vx_kk", 0x7000, 0xF000⟩
  | .ldReg _ _ => ⟨"LD_Vx_Vy", 0x8000, 0xF00F⟩
  | .orReg _ _ => ⟨"OR_Vx_Vy", 0x8001, 0xF00F⟩
  | .andReg _ _ => ⟨"AND_Vx_Vy", 0x8002, 0xF00F⟩
  | .xorReg _ _ => ⟨"XOR_Vx_Vy", 0x8003, 0xF00F⟩
  | .addReg _ _ => ⟨"ADD_Vx_Vy", 0x8004, 0xF00F⟩
  | .subReg _ _ => ⟨"SUB_Vx_Vy", 0x8005, 0xF00F⟩
  | .shr _ => ⟨"SHR_Vx", 0x8006, 0xF00F⟩
  | .subnReg _ _ => ⟨"SUBN_Vx_Vy", 0x8007, 0xF00F⟩
  | .shl _ => ⟨"SHL_Vx", 0x800E, 0xF00F⟩
  | .sneReg _ _ => ⟨"SNE_Vx_Vy", 0x9000, 0xF000⟩
  | .ldI _ => ⟨"LD_I_nnn", 0xA000, 0xF000⟩
  | .jpV0 _ => ⟨"JP_V0_nnn", 0xB000, 0xF000⟩
  | .rnd _ _ => ⟨"RND_Vx_kk", 0xC000, 0xF000⟩
  | .drw _ _ _ => ⟨"DRW_Vx_Vy_n", 0xD000, 0xF000⟩
  | .skp _ => ⟨"SKP_Vx", 0xE09E, 0xF0FF⟩
  | .sknp _ => ⟨"SKNP_Vx", 0xE0A1, 0xF0FF⟩
  | .ldVxDt _ => ⟨"LD_Vx_DT", 0xF007, 0xF0FF⟩
  | .ldVxK _ => ⟨"LD_Vx_K", 0xF00A, 0xF0FF⟩
  | .ldDtVx _ => ⟨"LD_DT_Vx", 0xF015, 0xF0FF⟩
  | .addI _ => ⟨"ADD_I_Vx", 0xF01E, 0xF0FF⟩
  | .ldF _ => ⟨"LD_F_Vx", 0xF029, 0xF0FF⟩
  | .ldB _ => ⟨"LD_B_Vx", 0xF033, 0xF0FF⟩
  | .storeRegs _ => ⟨"LD__I__Vx", 0xF055, 0xF0FF⟩
  | .loadRegs _ => ⟨"LD_Vx__I", 0xF065, 0xF0FF⟩

/-- The canonical word matches the instruction's own row, and the row stands in the table. -/
def Laws.TableRow.Statement (i : Instr) : Prop := encode i &&& i.row.mask = i.row.pattern ∧ i.row ∈ opcodeTable

theorem Laws.TableRow.cls : Laws.TableRow.Statement .cls := ⟨by decide, by decide⟩

theorem Laws.TableRow.ret : Laws.TableRow.Statement .ret := ⟨by decide, by decide⟩

theorem Laws.TableRow.jp (nnn : Addr12) : Laws.TableRow.Statement (.jp nnn) := 
  ⟨mask_addr _ _,
    (by decide : (⟨"JP_nnn", 0x1000, 0xF000⟩ : OpcodeRow) ∈ opcodeTable)⟩

theorem Laws.TableRow.call (nnn : Addr12) : Laws.TableRow.Statement (.call nnn) := 
  ⟨mask_addr _ _,
    (by decide : (⟨"CALL_nnn", 0x2000, 0xF000⟩ : OpcodeRow) ∈ opcodeTable)⟩

theorem Laws.TableRow.seImm (x : Reg) (kk : Byte) : Laws.TableRow.Statement (.seImm x kk) := 
  ⟨(mask_xkk _ _ _ 0x00#8).trans (by rw [BitVec.and_zero]; rfl),
    (by decide : (⟨"SE_Vx_kk", 0x3000, 0xF000⟩ : OpcodeRow) ∈ opcodeTable)⟩

theorem Laws.TableRow.sneImm (x : Reg) (kk : Byte) : Laws.TableRow.Statement (.sneImm x kk) := 
  ⟨(mask_xkk _ _ _ 0x00#8).trans (by rw [BitVec.and_zero]; rfl),
    (by decide : (⟨"SNE_Vx_kk", 0x4000, 0xF000⟩ : OpcodeRow) ∈ opcodeTable)⟩

theorem Laws.TableRow.seReg (x : Reg) (y : Reg) : Laws.TableRow.Statement (.seReg x y) := 
  ⟨(mask_xyn _ _ _ _ 0x0#4).trans (by rw [BitVec.and_zero]; rfl),
    (by decide : (⟨"SE_Vx_Vy", 0x5000, 0xF000⟩ : OpcodeRow) ∈ opcodeTable)⟩

theorem Laws.TableRow.ldImm (x : Reg) (kk : Byte) : Laws.TableRow.Statement (.ldImm x kk) := 
  ⟨(mask_xkk _ _ _ 0x00#8).trans (by rw [BitVec.and_zero]; rfl),
    (by decide : (⟨"LD_Vx_kk", 0x6000, 0xF000⟩ : OpcodeRow) ∈ opcodeTable)⟩

theorem Laws.TableRow.addImm (x : Reg) (kk : Byte) : Laws.TableRow.Statement (.addImm x kk) := 
  ⟨(mask_xkk _ _ _ 0x00#8).trans (by rw [BitVec.and_zero]; rfl),
    (by decide : (⟨"ADD_Vx_kk", 0x7000, 0xF000⟩ : OpcodeRow) ∈ opcodeTable)⟩

theorem Laws.TableRow.ldReg (x : Reg) (y : Reg) : Laws.TableRow.Statement (.ldReg x y) := 
  ⟨mask_xyn _ _ _ _ 0xF#4,
    (by decide : (⟨"LD_Vx_Vy", 0x8000, 0xF00F⟩ : OpcodeRow) ∈ opcodeTable)⟩

theorem Laws.TableRow.orReg (x : Reg) (y : Reg) : Laws.TableRow.Statement (.orReg x y) := 
  ⟨mask_xyn _ _ _ _ 0xF#4,
    (by decide : (⟨"OR_Vx_Vy", 0x8001, 0xF00F⟩ : OpcodeRow) ∈ opcodeTable)⟩

theorem Laws.TableRow.andReg (x : Reg) (y : Reg) : Laws.TableRow.Statement (.andReg x y) := 
  ⟨mask_xyn _ _ _ _ 0xF#4,
    (by decide : (⟨"AND_Vx_Vy", 0x8002, 0xF00F⟩ : OpcodeRow) ∈ opcodeTable)⟩

theorem Laws.TableRow.xorReg (x : Reg) (y : Reg) : Laws.TableRow.Statement (.xorReg x y) := 
  ⟨mask_xyn _ _ _ _ 0xF#4,
    (by decide : (⟨"XOR_Vx_Vy", 0x8003, 0xF00F⟩ : OpcodeRow) ∈ opcodeTable)⟩

theorem Laws.TableRow.addReg (x : Reg) (y : Reg) : Laws.TableRow.Statement (.addReg x y) := 
  ⟨mask_xyn _ _ _ _ 0xF#4,
    (by decide : (⟨"ADD_Vx_Vy", 0x8004, 0xF00F⟩ : OpcodeRow) ∈ opcodeTable)⟩

theorem Laws.TableRow.subReg (x : Reg) (y : Reg) : Laws.TableRow.Statement (.subReg x y) := 
  ⟨mask_xyn _ _ _ _ 0xF#4,
    (by decide : (⟨"SUB_Vx_Vy", 0x8005, 0xF00F⟩ : OpcodeRow) ∈ opcodeTable)⟩

theorem Laws.TableRow.shr (x : Reg) : Laws.TableRow.Statement (.shr x) := 
  ⟨mask_xyn _ _ _ _ 0xF#4,
    (by decide : (⟨"SHR_Vx", 0x8006, 0xF00F⟩ : OpcodeRow) ∈ opcodeTable)⟩

theorem Laws.TableRow.subnReg (x : Reg) (y : Reg) : Laws.TableRow.Statement (.subnReg x y) := 
  ⟨mask_xyn _ _ _ _ 0xF#4,
    (by decide : (⟨"SUBN_Vx_Vy", 0x8007, 0xF00F⟩ : OpcodeRow) ∈ opcodeTable)⟩

theorem Laws.TableRow.shl (x : Reg) : Laws.TableRow.Statement (.shl x) := 
  ⟨mask_xyn _ _ _ _ 0xF#4,
    (by decide : (⟨"SHL_Vx", 0x800E, 0xF00F⟩ : OpcodeRow) ∈ opcodeTable)⟩

theorem Laws.TableRow.sneReg (x : Reg) (y : Reg) : Laws.TableRow.Statement (.sneReg x y) := 
  ⟨(mask_xyn _ _ _ _ 0x0#4).trans (by rw [BitVec.and_zero]; rfl),
    (by decide : (⟨"SNE_Vx_Vy", 0x9000, 0xF000⟩ : OpcodeRow) ∈ opcodeTable)⟩

theorem Laws.TableRow.ldI (nnn : Addr12) : Laws.TableRow.Statement (.ldI nnn) := 
  ⟨mask_addr _ _,
    (by decide : (⟨"LD_I_nnn", 0xA000, 0xF000⟩ : OpcodeRow) ∈ opcodeTable)⟩

theorem Laws.TableRow.jpV0 (nnn : Addr12) : Laws.TableRow.Statement (.jpV0 nnn) := 
  ⟨mask_addr _ _,
    (by decide : (⟨"JP_V0_nnn", 0xB000, 0xF000⟩ : OpcodeRow) ∈ opcodeTable)⟩

theorem Laws.TableRow.rnd (x : Reg) (kk : Byte) : Laws.TableRow.Statement (.rnd x kk) := 
  ⟨(mask_xkk _ _ _ 0x00#8).trans (by rw [BitVec.and_zero]; rfl),
    (by decide : (⟨"RND_Vx_kk", 0xC000, 0xF000⟩ : OpcodeRow) ∈ opcodeTable)⟩

theorem Laws.TableRow.drw (x : Reg) (y : Reg) (n : BitVec 4) : Laws.TableRow.Statement (.drw x y n) := 
  ⟨(mask_xyn _ _ _ _ 0x0#4).trans (by rw [BitVec.and_zero]; rfl),
    (by decide : (⟨"DRW_Vx_Vy_n", 0xD000, 0xF000⟩ : OpcodeRow) ∈ opcodeTable)⟩

theorem Laws.TableRow.skp (x : Reg) : Laws.TableRow.Statement (.skp x) := 
  ⟨mask_xkk _ _ _ 0xFF#8,
    (by decide : (⟨"SKP_Vx", 0xE09E, 0xF0FF⟩ : OpcodeRow) ∈ opcodeTable)⟩

theorem Laws.TableRow.sknp (x : Reg) : Laws.TableRow.Statement (.sknp x) := 
  ⟨mask_xkk _ _ _ 0xFF#8,
    (by decide : (⟨"SKNP_Vx", 0xE0A1, 0xF0FF⟩ : OpcodeRow) ∈ opcodeTable)⟩

theorem Laws.TableRow.ldVxDt (x : Reg) : Laws.TableRow.Statement (.ldVxDt x) := 
  ⟨mask_xkk _ _ _ 0xFF#8,
    (by decide : (⟨"LD_Vx_DT", 0xF007, 0xF0FF⟩ : OpcodeRow) ∈ opcodeTable)⟩

theorem Laws.TableRow.ldVxK (x : Reg) : Laws.TableRow.Statement (.ldVxK x) := 
  ⟨mask_xkk _ _ _ 0xFF#8,
    (by decide : (⟨"LD_Vx_K", 0xF00A, 0xF0FF⟩ : OpcodeRow) ∈ opcodeTable)⟩

theorem Laws.TableRow.ldDtVx (x : Reg) : Laws.TableRow.Statement (.ldDtVx x) := 
  ⟨mask_xkk _ _ _ 0xFF#8,
    (by decide : (⟨"LD_DT_Vx", 0xF015, 0xF0FF⟩ : OpcodeRow) ∈ opcodeTable)⟩

theorem Laws.TableRow.addI (x : Reg) : Laws.TableRow.Statement (.addI x) := 
  ⟨mask_xkk _ _ _ 0xFF#8,
    (by decide : (⟨"ADD_I_Vx", 0xF01E, 0xF0FF⟩ : OpcodeRow) ∈ opcodeTable)⟩

theorem Laws.TableRow.ldF (x : Reg) : Laws.TableRow.Statement (.ldF x) := 
  ⟨mask_xkk _ _ _ 0xFF#8,
    (by decide : (⟨"LD_F_Vx", 0xF029, 0xF0FF⟩ : OpcodeRow) ∈ opcodeTable)⟩

theorem Laws.TableRow.ldB (x : Reg) : Laws.TableRow.Statement (.ldB x) := 
  ⟨mask_xkk _ _ _ 0xFF#8,
    (by decide : (⟨"LD_B_Vx", 0xF033, 0xF0FF⟩ : OpcodeRow) ∈ opcodeTable)⟩

theorem Laws.TableRow.storeRegs (x : Reg) : Laws.TableRow.Statement (.storeRegs x) := 
  ⟨mask_xkk _ _ _ 0xFF#8,
    (by decide : (⟨"LD__I__Vx", 0xF055, 0xF0FF⟩ : OpcodeRow) ∈ opcodeTable)⟩

theorem Laws.TableRow.loadRegs (x : Reg) : Laws.TableRow.Statement (.loadRegs x) := 
  ⟨mask_xkk _ _ _ 0xFF#8,
    (by decide : (⟨"LD_Vx__I", 0xF065, 0xF0FF⟩ : OpcodeRow) ∈ opcodeTable)⟩

end Sys2Proof
end

