-- ==== Sys2Proof/Laws/Step.lean ====
section
/-! SUPPORT. Say once what a step can do: the inversion of `step`, what `exec` can answer, and the fetch. -/

namespace Sys2Proof.Machine

/-- Every instruction answers a next state: this hardware has no other stop (log entry 8). -/
theorem exec_next (i : Instr) (s : State) : ∃ t, exec i s = .next t := by
  cases i <;> exact ⟨_, rfl⟩

/-- What fetch and decode can answer (R100 steps 2 to 4). -/
theorem State.fetchDecode_cases (s : State) :
    (fetchable s.pc = false ∧ s.fetchDecode = .error ⟨.fetchFault, s.pc⟩) ∨
    (fetchable s.pc = true ∧ (∃ e, decodeWord (s.readWord s.pc.toNat) = .error e) ∧
      s.fetchDecode = .error ⟨.illegalOpcode, s.readWord s.pc.toNat⟩) ∨
    (fetchable s.pc = true ∧ ∃ i, decodeWord (s.readWord s.pc.toNat) = .ok i ∧ s.fetchDecode = .ok i) := by
  unfold State.fetchDecode State.fetchOpcode
  cases hf : fetchable s.pc with
  | false => exact .inl ⟨rfl, rfl⟩
  | true =>
    cases hd : decodeWord (s.readWord s.pc.toNat) with
    | error e => exact .inr (.inl ⟨rfl, ⟨e, rfl⟩, by simp [hd]⟩)
    | ok i => exact .inr (.inr ⟨rfl, i, rfl, by simp [hd]⟩)

/-- Everything a step can do (R100): nothing when halted; raise FetchFault; raise IllegalOpcode; execute the decoded
instruction. In the last three the inputs of the cycle are gone at its end. -/
theorem step_cases (s : State) :
    (s.halted = true ∧ step s = .next s) ∨
    (s.halted = false ∧ fetchable s.pc = false ∧
      step s = .next (s.raise ⟨.fetchFault, s.pc⟩).nextInputs) ∨
    (s.halted = false ∧ fetchable s.pc = true ∧ (∃ e, decodeWord (s.readWord s.pc.toNat) = .error e) ∧
      step s = .next (s.raise ⟨.illegalOpcode, s.readWord s.pc.toNat⟩).nextInputs) ∨
    (s.halted = false ∧ fetchable s.pc = true ∧
      ∃ i t, decodeWord (s.readWord s.pc.toNat) = .ok i ∧ exec i s = .next t ∧ step s = .next t.nextInputs) := by
  cases hh : s.halted with
  | true => exact .inl ⟨rfl, by simp [step, hh]⟩
  | false =>
    rcases s.fetchDecode_cases with ⟨hf, h⟩ | ⟨hf, he, h⟩ | ⟨hf, i, hi, h⟩
    · exact .inr (.inl ⟨rfl, hf, by simp [step, hh, h]⟩)
    · exact .inr (.inr (.inl ⟨rfl, hf, he, by simp [step, hh, h]⟩))
    · obtain ⟨t, ht⟩ := exec_next i s
      exact .inr (.inr (.inr ⟨rfl, hf, i, t, hi, ht, by simp [step, hh, h, ht]⟩))

theorem fetchable_iff (a : Word) :
    fetchable a = true ↔ a.toNat % 2 = 0 ∧ 0x200 ≤ a.toNat ∧ a.toNat < 0x1000 := by
  simp [fetchable, and_assoc]

end Sys2Proof.Machine
end

