-- ==== Sys2Proof/Tests/Slice0.lean ====
section
/-! SUPPORT. The model's own tests: expected values are those of spec/95_test_vectors.md (the id stands in each
comment) or of the rule named. After them, the witnesses: concrete states that meet the hypotheses of the statements
in Certificates/Slice0/Obligations.lean, clause by clause, at the ends of the ranges. -/

set_option Elab.async false

namespace Sys2Proof.Tests

open Sys2Proof Sys2Proof.Machine

/-! ### Helpers -/

/-- The start state of the vectors: the reset state, with no key pressed and random byte 0. -/
def base : State := { State.reset with keys := 0, rnd := 0, pending := [⟨0, 0⟩], draws := 0 }

/-- The state with a word placed at `pc`. -/
def place (w : Word) (s : State) : State := s.storeBytes s.pc.toNat (wordBytes w)

/-- The state after one step. -/
def after (s : State) : State :=
  match step s with
  | .next t => t
  | _ => s

/-- One cycle of the word `w` placed at `pc` of the state. -/
def cycle (w : Word) (s : State) : State := after (place w s)

/-- The start state with `x[1]` and `x[2]` set. -/
def regs12 (a b : Byte) : State := (base.setReg 1 a).setReg 2 b

/-- The cycle raised a fault with this code and information, and `pc` stands. -/
def faulted (s t : State) (code : BitVec 4) (info : Word) : Bool :=
  t.halted && t.cause == code && t.finfo == info && t.pc == s.pc

/-! ### Well-formedness: each check refuses an ill-formed operand (R83, R91) -/

theorem test_wf_reg_index_16 : regIndexOk 16 = false ∧ regIndexOk 15 = true := by decide +kernel
theorem test_wf_address_13_bits : addrOperandOk 0x1000 = false ∧ addrOperandOk 0xFFF = true := by decide +kernel
theorem test_wf_byte_256 : byteOperandOk 256 = false ∧ byteOperandOk 255 = true := by decide +kernel
theorem test_wf_height_16 : heightOperandOk 16 = false ∧ heightOperandOk 15 = true := by decide +kernel

/-! ### Decode: every constructor, by words written out from 30_encoding.md (V30-1 to V30-23) -/

theorem test_decode_fam0 : decodeWord 0x00E0 = .ok .cls ∧ decodeWord 0x00EE = .ok .ret := by decide +kernel
theorem test_decode_addr : decodeWord 0x1ABC = .ok (.jp 0xABC) ∧ decodeWord 0x2ABC = .ok (.call 0xABC) ∧
    decodeWord 0xAABC = .ok (.ldI 0xABC) ∧ decodeWord 0xBABC = .ok (.jpV0 0xABC) := by decide +kernel
theorem test_decode_xkk : decodeWord 0x3A7F = .ok (.seImm 10 0x7F) ∧ decodeWord 0x4A7F = .ok (.sneImm 10 0x7F) ∧
    decodeWord 0x6A7F = .ok (.ldImm 10 0x7F) ∧ decodeWord 0x7A7F = .ok (.addImm 10 0x7F) ∧
    decodeWord 0xCA7F = .ok (.rnd 10 0x7F) := by decide +kernel
theorem test_decode_xy_ignored_nibble : decodeWord 0x5120 = .ok (.seReg 1 2) ∧ decodeWord 0x512F = .ok (.seReg 1 2) ∧
    decodeWord 0x9120 = .ok (.sneReg 1 2) ∧ decodeWord 0x912F = .ok (.sneReg 1 2) := by decide +kernel
theorem test_decode_fam8 : decodeWord 0x8AB0 = .ok (.ldReg 10 11) ∧ decodeWord 0x8AB1 = .ok (.orReg 10 11) ∧
    decodeWord 0x8AB2 = .ok (.andReg 10 11) ∧ decodeWord 0x8AB3 = .ok (.xorReg 10 11) ∧
    decodeWord 0x8AB4 = .ok (.addReg 10 11) ∧ decodeWord 0x8AB5 = .ok (.subReg 10 11) ∧
    decodeWord 0x8AB6 = .ok (.shr 10) ∧ decodeWord 0x8AB7 = .ok (.subnReg 10 11) ∧
    decodeWord 0x8ABE = .ok (.shl 10) := by decide +kernel
theorem test_decode_draw : decodeWord 0xDAB5 = .ok (.drw 10 11 5) := by decide +kernel
theorem test_decode_famE : decodeWord 0xEA9E = .ok (.skp 10) ∧ decodeWord 0xEAA1 = .ok (.sknp 10) := by decide +kernel
theorem test_decode_famF : decodeWord 0xFA07 = .ok (.ldVxDt 10) ∧ decodeWord 0xFA0A = .ok (.ldVxK 10) ∧
    decodeWord 0xFA15 = .ok (.ldDtVx 10) ∧ decodeWord 0xFA1E = .ok (.addI 10) ∧ decodeWord 0xFA29 = .ok (.ldF 10) ∧
    decodeWord 0xFA33 = .ok (.ldB 10) ∧ decodeWord 0xFA55 = .ok (.storeRegs 10) ∧
    decodeWord 0xFA65 = .ok (.loadRegs 10) := by decide +kernel

/-- The unrecognised words of V30-3, 4, 13, 21, 23. -/
theorem test_decode_illegal :
    [0x0000#16, 0x00E1#16, 0x00FE#16, 0x0123#16, 0x01E0#16, 0x0FFF#16, 0x8AB8#16, 0x8AB9#16, 0x8ABA#16, 0x8ABB#16,
      0x8ABC#16, 0x8ABD#16, 0x8ABF#16, 0xEA9F#16, 0xEAA0#16, 0xEA1E#16, 0xEA00#16, 0xEAFF#16, 0xFA18#16, 0xFA00#16,
      0xFAFF#16, 0xFA75#16, 0xFA85#16, 0xFA05#16].all (fun w => match decodeWord w with
        | .error e => e == .illegalOpcode w
        | .ok _ => false) = true := by decide +kernel

theorem test_decode_truncated : decodeBytes [0x12] = .error (.truncated [0x12]) := by decide +kernel
theorem test_table_has_33_rows : opcodeTable.length = 33 := by decide +kernel

/-- No two rows of the opcode table overlap: they differ in a bit that both masks fix (R92). -/
theorem test_table_disjoint : opcodeTable.Pairwise (fun r s => (r.pattern ^^^ s.pattern) &&& r.mask &&& s.mask ≠ 0) := by
  decide +kernel

theorem test_table_word : decodeTableWord 16 0xDAB5 = some (.drw 10 11 5) ∧ decodeTableWord 16 0xFA18 = none := by decide +kernel
theorem test_fetch_word : (State.reset.withFetchWord 16 0x6A2B).fetchOpcode = .ok 0x6A2B := by decide +kernel
theorem test_fetch_word_runs : (after (State.reset.withFetchWord 16 0x6A2B)).reg 10 = 0x2B := by decide +kernel

/-! ### The cycle (V40) -/

theorem test_boot_without_program : faulted base (after base) 1 0x0000 = true := by decide +kernel
theorem test_pc_odd : faulted (base.setPc 0x201) (after (base.setPc 0x201)) 2 0x0201 = true := by decide +kernel
theorem test_pc_top : (after (place 0x6001 (base.setPc 0xFFE))).pc = 0x1000 := by decide +kernel
theorem test_big_endian : (after (base.storeBytes 0x200 [0x12, 0x34])).pc = 0x234 := by decide +kernel
theorem test_illegal_executed : faulted base (cycle 0xF118 base) 1 0xF118 = true := by decide +kernel

/-! ### Flow (V41) -/

theorem test_cls : ((cycle 0x00E0 (base.fbSet 63 63 true)).fbGet 63 63, (cycle 0x00E0 base).pc) = (false, 0x202) := by
  decide +kernel

/-- V41-2: the state at a RET inside one call. -/
def inCall : State := { base with pc := 0x20C, sp := 1, stack := base.stack.set 1 0x0204 }
theorem test_ret : ((cycle 0x00EE inCall).pc, (cycle 0x00EE inCall).sp, (cycle 0x00EE inCall).stackAt 1) =
    (0x206, 0, 0x204) := by decide +kernel
theorem test_ret_underflow : faulted base (cycle 0x00EE base) 6 0 = true := by decide +kernel
theorem test_jp : (cycle 0x1234 base).pc = 0x0234 := by decide +kernel
theorem test_call : ((cycle 0x220A (base.setPc 0x204)).pc, (cycle 0x220A (base.setPc 0x204)).stackAt 1) = (0x20A, 0x204) := by
  decide +kernel
theorem test_call_overflow : faulted ({ base with pc := 0x2F0, sp := 15 }) (cycle 0x2300 { base with pc := 0x2F0, sp := 15 })
    5 0x02F0 = true := by decide +kernel
theorem test_jpV0_uses_register_0 : (cycle 0xB300 ((base.setReg 0 0x08).setReg 3 0x40)).pc = 0x0308 := by decide +kernel
theorem test_jpV0_passes_top : (cycle 0xBFFE (base.setReg 0 0x04)).pc = 0x1002 := by decide +kernel

/-! ### Skips (V42) -/

theorem test_se_imm : ((cycle 0x3000 base).pc, (cycle 0x3001 base).pc) = (0x204, 0x202) := by decide +kernel
theorem test_sne_imm : ((cycle 0x4105 (regs12 5 0)).pc, (cycle 0x4105 (regs12 6 0)).pc) = (0x202, 0x204) := by decide +kernel
theorem test_se_reg : ((cycle 0x5127 (regs12 0x7F 0x7F)).pc, (cycle 0x5120 (regs12 0x7F 0x7E)).pc) = (0x204, 0x202) := by
  decide +kernel
theorem test_sne_reg : ((cycle 0x912F (regs12 1 2)).pc, (cycle 0x9110 (regs12 1 2)).pc) = (0x204, 0x202) := by decide +kernel
theorem test_skp : ((cycle 0xE19E ((regs12 0x0A 0).withInputs 0x0400 0)).pc,
    (cycle 0xE19E ((regs12 0x0A 0).withInputs 0xFBFF 0)).pc) = (0x204, 0x200) := by decide +kernel
theorem test_skp_index : faulted base (cycle 0xE19E ((regs12 0x10 0).withInputs 0xFFFF 0)) 8 0x0010 = true := by decide +kernel
theorem test_sknp : ((cycle 0xE1A1 ((regs12 0x0A 0).withInputs 0xFBFF 0)).pc,
    (cycle 0xE1A1 ((regs12 0x0A 0).withInputs 0x0400 0)).pc) = (0x204, 0x200) := by decide +kernel
theorem test_sknp_index : faulted base (cycle 0xE1A1 (regs12 0x1A 0)) 8 0x001A = true := by decide +kernel

/-! ### Immediates (V43) -/

theorem test_ld_imm_flag_register : ((cycle 0x6F55 base).reg 15, (cycle 0x6F55 base).pc) = (0x55, 0x202) := by decide +kernel
theorem test_add_imm_no_flag : ((cycle 0x7101 (regs12 0xFF 0)).reg 1, (cycle 0x7101 (regs12 0xFF 0)).reg 15) = (0, 0) := by
  decide +kernel
theorem test_ldI_clears_upper : (cycle 0xA000 (base.setIdx 0xFFFF)).idx = 0 := by decide +kernel
theorem test_rnd : (cycle 0xC30F (base.withInputs 0 0xA7)).reg 3 = 0x07 := by decide +kernel

/-! ### Family 8 (V44) -/

theorem test_ld_reg : (cycle 0x8F10 (regs12 0x77 0)).reg 15 = 0x77 := by decide +kernel
theorem test_or_keeps_flag : ((cycle 0x8121 ((regs12 0xF0 0x0F).setReg 15 1)).reg 1,
    (cycle 0x8121 ((regs12 0xF0 0x0F).setReg 15 1)).reg 15) = (0xFF, 1) := by decide +kernel
theorem test_and : (cycle 0x8122 (regs12 0xF0 0x3C)).reg 1 = 0x30 := by decide +kernel
theorem test_xor : (cycle 0x8123 (regs12 0xF0 0x3C)).reg 1 = 0xCC := by decide +kernel
theorem test_add_carry : ((cycle 0x8124 (regs12 0xFF 0x01)).reg 1, (cycle 0x8124 (regs12 0xFF 0x01)).reg 15) = (0, 1) := by
  decide +kernel
theorem test_add_into_flag : (cycle 0x8F14 ((regs12 0x20 0).setReg 15 0xF0)).reg 15 = 1 := by decide +kernel
theorem test_sub_borrow : ((cycle 0x8125 (regs12 3 5)).reg 1, (cycle 0x8125 (regs12 3 5)).reg 15) = (0xFE, 1) := by decide +kernel
theorem test_sub_equal : ((cycle 0x8125 (regs12 0x42 0x42)).reg 1, (cycle 0x8125 (regs12 0x42 0x42)).reg 15) = (0, 0) := by
  decide +kernel
theorem test_shr : ((cycle 0x8126 (regs12 0xF1 0x55)).reg 1, (cycle 0x8126 (regs12 0xF1 0x55)).reg 15) = (0x78, 1) := by
  decide +kernel
theorem test_shr_flag_register : (cycle 0x8F06 (base.setReg 15 0x07)).reg 15 = 0x03 := by decide +kernel
theorem test_subn : ((cycle 0x8127 (regs12 5 3)).reg 1, (cycle 0x8127 (regs12 5 3)).reg 15) = (0xFE, 1) := by decide +kernel
theorem test_shl : ((cycle 0x812E (regs12 0x41 0xFF)).reg 1, (cycle 0x810E (regs12 0xF1 0)).reg 15) = (0x82, 1) := by decide +kernel
theorem test_shl_flag_register : (cycle 0x8F0E (base.setReg 15 0x81)).reg 15 = 0x02 := by decide +kernel

/-! ### Sprite draw (V45) -/

/-- `I = 0x300`, `mem[0x300]` a sprite row, `x[0]` and `x[1]` the origin. -/
def sprite (row vx vy : Byte) : State := (((base.setIdx 0x300).storeByte 0x300 row).setReg 0 vx).setReg 1 vy

/-- V45-1. -/
theorem test_draw_collision :
    ((cycle 0xD011 (((sprite 0xC0 0 0).fbSet 0 0 true).fbSet 2 0 true)).fbRow 0,
      (cycle 0xD011 (((sprite 0xC0 0 0).fbSet 0 0 true).fbSet 2 0 true)).reg 15) = (0b110#64, 1) := by decide +kernel
/-- V45-11: the address fault comes before the coordinate fault. -/
theorem test_draw_address_first : faulted base (cycle 0xD012 ((sprite 0 63 63).setIdx 0xFFF)) 4 0x1000 = true := by decide +kernel

/-! ### Family F (V46) -/

theorem test_ld_dt : (cycle 0xF215 (regs12 0 0x3C)).dt = 0x3C := by decide +kernel
theorem test_ld_vx_dt : (cycle 0xF207 (base.setDt 0x3C)).reg 2 = 0x3C := by decide +kernel
theorem test_wait_key_lowest : ((cycle 0xF30A (base.withInputs 0x8104 0)).reg 3, (cycle 0xF30A base).pc) = (2, 0x200) := by
  decide +kernel
theorem test_add_i_wraps : (cycle 0xF41E ((base.setIdx 0xFFFF).setReg 4 2)).idx = 1 := by decide +kernel
theorem test_add_i_passes_12_bits : (cycle 0xF41E ((base.setIdx 0x0FFF).setReg 4 1)).idx = 0x1000 := by decide +kernel
theorem test_glyph_digit : faulted base (cycle 0xF029 (base.setReg 0 0x10)) 9 0x0010 = true := by decide +kernel
/-- V46-8, whatever `GLYPH_BASE` is. -/
theorem test_glyph_address : (cycle 0xF029 (base.setReg 0 7)).idx = BitVec.ofNat 16 (Config.glyphBase.val + 35) := rfl
theorem test_bcd : ((cycle 0xF033 ((base.setIdx 0x300).setReg 0 109)).readByte 0x300,
    (cycle 0xF033 ((base.setIdx 0x300).setReg 0 109)).readByte 0x301,
    (cycle 0xF033 ((base.setIdx 0x300).setReg 0 109)).readByte 0x302) = (1, 0, 9) := by decide +kernel
theorem test_bcd_protect : faulted base (cycle 0xF033 ((base.setIdx 0x1FF).setReg 0 123)) 3 0x01FF = true := by decide +kernel
/-- S8, its last register. -/
theorem test_store_block : ((cycle 0xF855 ((base.setIdx 0x204).setReg 8 8)).readByte 0x20C,
    (cycle 0xF855 ((base.setIdx 0x204).setReg 8 8)).idx) = (8, 0x20D) := by decide +kernel
theorem test_store_block_top : faulted base (cycle 0xF855 (base.setIdx 0xFF8)) 4 0x1000 = true := by decide +kernel
/-- V46-20. -/
theorem test_load_block : ((cycle 0xF265 ((base.setIdx 0x300).storeBytes 0x300 [2, 3, 4])).reg 2,
    (cycle 0xF265 ((base.setIdx 0x300).storeBytes 0x300 [2, 3, 4])).idx) = (4, 0x303) := by decide +kernel
theorem test_load_block_top : faulted base (cycle 0xF165 (base.setIdx 0xFFF)) 4 0x1000 = true := by decide +kernel

/-! ### Reset and load (V70) -/

/-- V70-3. -/
theorem test_load_one_byte_too_many (bytes : List Byte) (h : bytes.length = 3585) :
    (base.loadProgram bytes).1 = .programTooLarge := by
  rw [State.loadProgram, if_pos (by rw [h]; decide)]
theorem test_load_tail_remains : ((base.loadProgram [0x60, 0x01, 0x12, 0x02]).2.loadProgram [0x61, 0x02]).2.readWord 0x202 =
    0x1202 := by decide +kernel
theorem test_load_while_halted : (after ((base.raise ⟨.stackUnderflow, 0⟩).loadProgram [0x12, 0x00]).2).halted = true := by
  decide +kernel
theorem test_reset_releases : (base.raise ⟨.stackUnderflow, 0⟩).resetCore.halted = false := by decide +kernel

/-! ### Witnesses: decode and encode -/

theorem witness_EncodeDecodeCanonical : decodeWord 0x512F = .ok (.seReg 1 2) ∧ decodeWord 0x81F6 = .ok (.shr 1) ∧
    decodeWord 0xD120 = .ok (.drw 1 2 0) := by decide +kernel

theorem witness_DecodeAcceptsExactlyTheTable : (∃ i, decodeWord 0x8AB6 = .ok i) ∧
    decodeWord 0x8AB8 = .error (.illegalOpcode 0x8AB8) ∧
    ∃ r ∈ opcodeTable, (0x8AB6 : Word) &&& r.mask = r.pattern :=
  ⟨⟨_, rfl⟩, by decide +kernel, ⟨"SHR_Vx", 0x8006, 0xF00F⟩, by decide +kernel, by decide +kernel⟩

theorem witness_SecondLevelDecode_fam0 : Op.fam 0x00E0 = 0x0 ∧ Op.fam 0x00EE = 0x0 ∧ Op.fam 0x0FFF = 0x0 := by
  decide +kernel

/-! ### Witnesses: the run cycle -/

/-- A word the coming cycle executes: LD VA,0x2B at 0x200. -/
def ready : State := place 0x6A2B base

/-- A halted core. -/
def stopped : State := base.raise ⟨.stackUnderflow, 0⟩

theorem witness_StepRunsDecodedInstruction_pending : ready.halted = false ∧ ready.pc.toNat % 2 = 0 ∧
    0x200 ≤ ready.pc.toNat ∧ ready.pc.toNat < 0x1000 ∧
    decodeWord (ready.readByte ready.pc.toNat ++ ready.readByte (ready.pc.toNat + 1)) = .ok (.ldImm 10 0x2B) ∧
    ∃ t, exec (.ldImm 10 0x2B) ready = .next t ∧ t.pending = ⟨0, 0⟩ :: [] :=
  ⟨by decide +kernel, by decide +kernel, by decide +kernel, by decide +kernel, by decide +kernel, _, rfl,
    by decide +kernel⟩

/-- The last fetchable `pc`, and no input pending. -/
def readyTop : State := place 0x6A2B { base with pc := 0xFFE, pending := [] }

theorem witness_StepRunsDecodedInstruction_free : readyTop.halted = false ∧ readyTop.pc.toNat % 2 = 0 ∧
    0x200 ≤ readyTop.pc.toNat ∧ readyTop.pc.toNat < 0x1000 ∧
    decodeWord (readyTop.readByte readyTop.pc.toNat ++ readyTop.readByte (readyTop.pc.toNat + 1)) = .ok (.ldImm 10 0x2B) ∧
    ∃ t, exec (.ldImm 10 0x2B) readyTop = .next t ∧ t.pending = [] :=
  ⟨by decide +kernel, by decide +kernel, by decide +kernel, by decide +kernel, by decide +kernel, _, rfl,
    by decide +kernel⟩

/-- The four cases of RunCycle: halted; not fetchable; unrecognised; executed. -/
theorem witness_RunCycleFollowsItsSteps : stopped.halted = true ∧
    ((base.setPc 0x1000).halted = false ∧ fetchable (base.setPc 0x1000).pc = false) ∧
    (base.halted = false ∧ fetchable base.pc = true ∧
      decodeWord (base.readWord base.pc.toNat) = .error (.illegalOpcode (base.readWord base.pc.toNat))) ∧
    (ready.halted = false ∧ fetchable ready.pc = true ∧
      decodeWord (ready.readWord ready.pc.toNat) = .ok (.ldImm 10 0x2B)) := by
  decide +kernel

theorem witness_HaltedUntilReset : stopped.halted = true ∧ ([] : List Byte).length ≤ 3584 := by decide +kernel

/-- Each way a `pc` can be unfetchable, at its bound, and the two ends of the fetchable range. -/
theorem witness_FetchFaultOnUnfetchablePc : base.halted = false ∧
    ((base.setPc 0x201).pc.toNat % 2 = 1) ∧ ((base.setPc 0x1FE).pc.toNat < 0x200) ∧
    (0x1000 ≤ (base.setPc 0x1000).pc.toNat) ∧ fetchable 0x200 = true ∧ fetchable 0xFFE = true := by decide +kernel

theorem witness_IllegalOpcodeHalts : base.halted = false ∧ fetchable base.pc = true ∧
    ∀ r ∈ opcodeTable, base.readWord base.pc.toNat &&& r.mask ≠ r.pattern := by decide +kernel

theorem witness_FetchReadsBigEndian : fetchable ready.pc = true := by decide +kernel

/-- LD [I],V1 at 0x200 with `I` at the next instruction. -/
def selfModify : State := place 0xF155 (base.setIdx 0x202)

theorem witness_StoredCodeIsFetchedNext : selfModify.halted = false ∧ fetchable selfModify.pc = true ∧
    decodeWord (selfModify.readWord selfModify.pc.toNat) = .ok (.storeRegs 1) ∧ 1 ≤ (1 : Reg).toNat ∧
    selfModify.idx.toNat = selfModify.pc.toNat + 2 ∧ selfModify.idx.toNat + (1 : Reg).toNat ≤ 0xFFF := by decide +kernel

/-! ### Witnesses: faults -/

theorem witness_FaultChangesOnlyTheLatch : (∃ t, step base = .next t ∧ base.halted = false ∧ t.halted = true) ∧
    ∃ t, exec .ret base = .next t ∧ base.halted = false ∧ t.halted = true :=
  ⟨⟨_, rfl, by decide +kernel, by decide +kernel⟩, _, rfl, by decide +kernel, by decide +kernel⟩

theorem witness_FaultCausesByInstruction : ∃ t, exec (.ldB 0) (base.setIdx 0x1FF) = .next t ∧
    (base.setIdx 0x1FF).halted = false ∧ t.halted = true :=
  ⟨_, rfl, by decide +kernel, by decide +kernel⟩

/-! ### Witnesses: the cases of each instruction, at their bounds -/

theorem witness_RetPopsAndAddsTwo : base.sp = 0 ∧ inCall.sp ≠ 0 := by decide +kernel
theorem witness_CallPushesItsOwnAddress : ({ base with sp := 15 } : State).sp = 15 ∧
    ({ base with sp := 14 } : State).sp ≠ 15 := by decide +kernel
theorem witness_SkipOnImmediate : (base.reg 0).toNat = (0 : Byte).toNat ∧ (base.reg 0).toNat ≠ (1 : Byte).toNat := by
  decide +kernel
theorem witness_SkipOnRegisters : ((regs12 7 7).reg 1).toNat = ((regs12 7 7).reg 2).toNat ∧
    ((regs12 7 6).reg 1).toNat ≠ ((regs12 7 6).reg 2).toNat := by decide +kernel

/-- Index 16 faults; index 15 with key 15 up, and down. -/
theorem witness_SkipOnKeyOrStay : 15 < ((regs12 16 0).reg 1).toNat ∧ ¬ 15 < ((regs12 15 0).reg 1).toNat ∧
    ((regs12 15 0).withInputs 0x8000 0).keys.getLsbD 15 = true ∧ (regs12 15 0).keys.getLsbD 15 = false := by
  decide +kernel

theorem witness_RandomIsMasked : (2 : Reg) ≠ 3 := by decide +kernel

theorem witness_CopyAndLogic : (Instr.orReg 1 2, fun (a b : Bool) => a || b) ∈
    [(Instr.ldReg 1 2, fun (_ b : Bool) => b), (Instr.orReg 1 2, fun a b => a || b),
      (Instr.andReg 1 2, fun a b => a && b), (Instr.xorReg 1 2, fun a b => a ^^ b)] ∧ (15 : Reg) ≠ 1 :=
  ⟨.tail _ (.head _), by decide +kernel⟩

/-- The first clause of the draw: the second sprite byte is at 0x1000. -/
theorem witness_DrawTogglesTheSprite_address : (2 : BitVec 4) ≠ 0 ∧
    0x1000 < ((sprite 0 0 0).setIdx 0xFFF).idx.toNat + (2 : BitVec 4).toNat := by decide +kernel

/-- The second clause: the last sprite byte is at 0xFFF, and its bit 7 targets column 64. -/
theorem witness_DrawTogglesTheSprite_offGrid :
    ((sprite 0 64 0).setIdx 0xFFF).idx.toNat + (1 : BitVec 4).toNat ≤ 0x1000 ∧
    ∃ px py, (((sprite 0 64 0).setIdx 0xFFF).storeByte 0xFFF 0x80).drawHits 0 1 1 px py = true ∧ (63 < px ∨ 63 < py) :=
  ⟨by decide +kernel, 64, 0, by decide +kernel, by decide +kernel⟩

/-- The third clause: one bit, on the last cell of the grid; it is on before in the second state, off in the first. -/
theorem witness_DrawTogglesTheSprite_drawn :
    (sprite 0x80 63 63).idx.toNat + (1 : BitVec 4).toNat ≤ 0x1000 ∧
    (∀ px py, (sprite 0x80 63 63).drawHits 0 1 1 px py = true → px ≤ 63 ∧ py ≤ 63) ∧
    (∀ px py, (sprite 0x80 63 63).drawHits 0 1 1 px py = true → (sprite 0x80 63 63).fbGet px py = false) ∧
    (∃ px py, ((sprite 0x80 63 63).fbSet 63 63 true).drawHits 0 1 1 px py = true ∧
      ((sprite 0x80 63 63).fbSet 63 63 true).fbGet px py = true) ∧ (0 : Reg) ≠ 15 := by
  have only : ∀ px py, (sprite 0x80 63 63).drawHits 0 1 1 px py = true → px = 63 ∧ py = 63 := by
    intro px py h
    have hv : ((sprite 0x80 63 63).reg 0).toNat = 63 ∧ ((sprite 0x80 63 63).reg 1).toNat = 63 := by decide +kernel
    simp only [State.drawHits, State.spriteHits, hv.1, hv.2, Bool.and_eq_true, decide_eq_true_eq] at h
    obtain ⟨⟨h1, h2, h3, h4⟩, h5⟩ := h
    have h4' : py < 64 := h4
    have e : py = 63 := by omega
    subst e
    have cols : ∀ c < 8, ((sprite 0x80 63 63).readByte ((sprite 0x80 63 63).idx.toNat + (63 - 63))).getLsbD (7 - c) = true →
        c = 0 := by decide +kernel
    have := cols (px - 63) (by omega) h5
    omega
  refine ⟨by decide +kernel, fun px py h => ?_, fun px py h => ?_, ⟨63, 63, by decide +kernel, by decide +kernel⟩,
    by decide +kernel⟩
  · have := only px py h; omega
  · obtain ⟨rfl, rfl⟩ := only px py h; decide +kernel

/-- A set bit in column 1 of row 0 with `vx + 1 = 64`; and with `vx + 1 = 63`. -/
theorem witness_DrawOffGridFaults :
    (sprite 0x40 63 0).idx.toNat + (1 : BitVec 4).toNat ≤ 0x1000 ∧
    (∃ r < (1 : BitVec 4).toNat, ∃ c < 8,
      ((sprite 0x40 63 0).readByte ((sprite 0x40 63 0).idx.toNat + r)).getLsbD (7 - c) = true ∧
      (63 < ((sprite 0x40 63 0).reg 0).toNat + c ∨ 63 < ((sprite 0x40 63 0).reg 1).toNat + r)) ∧
    (∀ r < (1 : BitVec 4).toNat, ∀ c < 8,
      ((sprite 0x40 62 63).readByte ((sprite 0x40 62 63).idx.toNat + r)).getLsbD (7 - c) = true →
      ((sprite 0x40 62 63).reg 0).toNat + c ≤ 63 ∧ ((sprite 0x40 62 63).reg 1).toNat + r ≤ 63) := by
  decide +kernel

/-- No key; key 15 alone; key 0 before key 15. -/
theorem witness_WaitForKeyTakesTheLowest : (∀ k < 16, base.keys.getLsbD k = false) ∧
    ((base.withInputs 0x8000 0).keys.getLsbD 15 = true ∧ ∀ j < 15, (base.withInputs 0x8000 0).keys.getLsbD j = false) ∧
    ((base.withInputs 0x8001 0).keys.getLsbD 0 = true ∧ ∀ j < 0, (base.withInputs 0x8001 0).keys.getLsbD j = false) := by
  decide +kernel

theorem witness_GlyphAddressOfDigit : 15 < ((base.setReg 0 16).reg 0).toNat ∧ ¬ 15 < ((base.setReg 0 15).reg 0).toNat := by
  decide +kernel

/-- `I` at 0x1FF, 0x200, 0xFFD, 0xFFE, 0xFFFF: protected, stored, stored, past the end at 0x1000, past the end at `I`. -/
theorem witness_StoreBcd : (base.setIdx 0x1FF).idx.toNat < 0x200 ∧
    (¬ (base.setIdx 0x200).idx.toNat < 0x200 ∧ ¬ 0xFFF < (base.setIdx 0x200).idx.toNat + 2) ∧
    ¬ 0xFFF < (base.setIdx 0xFFD).idx.toNat + 2 ∧
    (¬ (base.setIdx 0xFFE).idx.toNat < 0x200 ∧ 0xFFF < (base.setIdx 0xFFE).idx.toNat + 2 ∧
      ¬ 0xFFF < (base.setIdx 0xFFE).idx.toNat) ∧
    0xFFF < (base.setIdx 0xFFFF).idx.toNat := by decide +kernel

/-- LD [I],V8 with `I` at 0x1FF, 0x200, 0xFF7, 0xFF8. -/
theorem witness_StoreRegisterBlock : (base.setIdx 0x1FF).idx.toNat < 0x200 ∧
    (¬ (base.setIdx 0x200).idx.toNat < 0x200 ∧ ¬ 0xFFF < (base.setIdx 0x200).idx.toNat + (8 : Reg).toNat) ∧
    ¬ 0xFFF < (base.setIdx 0xFF7).idx.toNat + (8 : Reg).toNat ∧
    0xFFF < (base.setIdx 0xFF8).idx.toNat + (8 : Reg).toNat ∧ (8 : Reg).toNat ≤ (8 : Reg).toNat ∧
    (base.setIdx 0xFF7).idx.toNat + (8 : Reg).toNat < 0x1000 := by decide +kernel

/-- LD V8,[I] with `I` at 0, 0xFF7, 0xFF8. -/
theorem witness_LoadRegisterBlock : ¬ 0xFFF < (base.setIdx 0).idx.toNat + (8 : Reg).toNat ∧
    ¬ 0xFFF < (base.setIdx 0xFF7).idx.toNat + (8 : Reg).toNat ∧
    0xFFF < (base.setIdx 0xFF8).idx.toNat + (8 : Reg).toNat := by decide +kernel

/-! ### Witnesses: rules of the whole machine -/

/-- CLS; LD V3,K with key 15 down; LD V3,K with no key. -/
theorem witness_PcAdvancesByTwo :
    (∃ t, exec .cls base = .next t ∧ base.halted = false ∧ t.halted = false ∧ Instr.cls.transfersOrSkips = false ∧
      ∀ x, Instr.cls = .ldVxK x → base.keys ≠ 0) ∧
    (∃ t, exec (.ldVxK 3) (base.withInputs 0x8000 0) = .next t ∧ (base.withInputs 0x8000 0).halted = false ∧
      t.halted = false ∧ (Instr.ldVxK 3).transfersOrSkips = false ∧ (base.withInputs 0x8000 0).keys ≠ 0) ∧
    ∃ t, exec (.ldVxK 3) base = .next t ∧ base.halted = false ∧ t.halted = false ∧
      (Instr.ldVxK 3).transfersOrSkips = false ∧ base.keys = 0 :=
  ⟨⟨_, rfl, by decide +kernel, by decide +kernel, rfl, fun _ h => by cases h⟩,
    ⟨_, rfl, by decide +kernel, by decide +kernel, rfl, by decide +kernel⟩,
    ⟨_, rfl, by decide +kernel, by decide +kernel, rfl, by decide +kernel⟩⟩

theorem witness_RegistersWrittenByTheTable : (∃ t, exec (.addReg 1 2) base = .next t) ∧
    (Instr.addReg 1 2).mayWriteReg 2 = false ∧ (Instr.ldImm 1 0).mayWriteReg 15 = false ∧
    (Instr.loadRegs 14).mayWriteReg 15 = false := ⟨⟨_, rfl⟩, by decide +kernel, by decide +kernel, by decide +kernel⟩

theorem witness_FrameByInstruction : (∃ t, exec (.ldB 0) base = .next t) ∧
    (Instr.ldB 0).mayChange .regs = false ∧ (Part.regs ≠ .latch ∨ (Instr.ldB 0).mayRaise = []) ∧
    Instr.cls.mayChange .latch = false ∧ (Part.latch ≠ .latch ∨ Instr.cls.mayRaise = []) :=
  ⟨⟨_, rfl⟩, rfl, .inl (by decide), rfl, .inr rfl⟩

theorem witness_InputsIgnoredByTheRest : (∃ t, exec (.ldImm 1 2) base = .next t) ∧ (Instr.ldImm 1 2).readsRnd = false ∧
    (Instr.ldImm 1 2).readsKeys = false ∧ (Instr.skp 1).readsRnd = false ∧ (Instr.rnd 1 2).readsKeys = false :=
  ⟨⟨_, rfl⟩, rfl, rfl, rfl, rfl⟩

/-- A state inside a call, with the RET stored in memory, meets both invariants and steps. -/
theorem witness_MachineInv : MachineInv (place 0x00EE inCall) ∧ ∃ t, step (place 0x00EE inCall) = .next t :=
  ⟨⟨by decide +kernel, by decide +kernel, by decide +kernel, by decide +kernel⟩, _, rfl⟩

/-- A halted state with a code meets the machine invariant. -/
theorem witness_MachineInv_halted : MachineInv stopped ∧ stopped.halted = true :=
  ⟨⟨by decide +kernel, by decide +kernel, by decide +kernel, by decide +kernel⟩, by decide +kernel⟩

theorem witness_ControlInv : ControlInv (place 0x00EE inCall) ∧ (place 0x00EE inCall).sp = 1 ∧
    ∃ t, step (place 0x00EE inCall) = .next t :=
  ⟨⟨by decide +kernel, by decide +kernel, by decide +kernel⟩, by decide +kernel, _, rfl⟩

theorem witness_ReservedRegionNeverWritten : 0x1FF < 0x200 ∧ ∃ t, step (place 0xF033 (base.setIdx 0x1FF)) = .next t :=
  ⟨by decide, _, rfl⟩

theorem witness_ResetLeavesTheResetState : stopped.resetCore = stopped.resetCore ∧ stopped.halted = true ∧
    0xFFF < 0x1000 := ⟨rfl, by decide +kernel, by decide⟩

/-- A buffer of 3584 bytes fits and one of 3585 does not. -/
theorem witness_LoadProgramCopiesOrRefuses : 0x200 + (List.replicate 3584 (0 : Byte)).length ≤ 4096 ∧
    4096 < 0x200 + (List.replicate 3585 (0 : Byte)).length := by
  rw [List.length_replicate, List.length_replicate]; decide

/-- CALL from depth 14 and a RET that finds the stack as the CALL left it. -/
theorem witness_CallThenReturn : ({ base with sp := 14 } : State).sp ≠ 15 ∧
    ∃ t, exec (.call 0x300) { base with sp := 14 } = .next t ∧
      (t.setReg 1 7).sp = t.sp ∧ (t.setReg 1 7).stackAt (t.setReg 1 7).sp = t.stackAt t.sp :=
  ⟨by decide +kernel, _, rfl, by decide +kernel, by decide +kernel⟩

theorem witness_DrawTwiceRestores : (0 : Reg) ≠ 15 ∧ (1 : Reg) ≠ 15 ∧
    ∃ t u, exec (.drw 0 1 1) (sprite 0x80 63 63) = .next t ∧ (sprite 0x80 63 63).halted = false ∧ t.halted = false ∧
      exec (.drw 0 1 1) t = .next u ∧
      (∀ px py, (sprite 0x80 63 63).drawHits 0 1 1 px py = true → (sprite 0x80 63 63).fbGet px py = false) ∧
      (sprite 0x80 63 63).drawHits 0 1 1 63 63 = true :=
  ⟨by decide +kernel, by decide +kernel, _, _, rfl, by decide +kernel, by decide +kernel, rfl,
    witness_DrawTogglesTheSprite_drawn.2.2.1, by decide +kernel⟩

theorem witness_JumpToSelfIsFixed : (place 0x1200 base).halted = false ∧ fetchable (place 0x1200 base).pc = true ∧
    (place 0x1200 base).readWord (place 0x1200 base).pc.toNat = 0x1000#16 ||| (place 0x1200 base).pc := by decide +kernel

end Sys2Proof.Tests
end

section
/-! PROOFS. Reset (spec/10_state.md R38, spec/70_reset_and_hazards.md R230 to R232): what every observation of the state
reads after it. -/

namespace Sys2Proof.Machine

/-- The glyph table ends at or below 0x200 for every admitted `GLYPH_BASE` (R62), so what memory reads as after reset
(R38) has two cases only: inside the table, and zero. -/
theorem Memory.initial_eq_glyph_or_zero (a : Nat) :
    Memory.initial a =
      if Config.glyphBase.val ≤ a ∧ a < Config.glyphBase.val + 80 then
        Config.glyphRom.getD (a - Config.glyphBase.val) 0
      else 0 := by
  by_cases hprog : 0x200 ≤ a
  · have hbase := Config.glyphBase.isLt
    rw [Memory.initial_program a hprog, if_neg (by omega)]
  · exact if_neg hprog

/-- The model's reset state is itself a state that Reset leaves: what holds after Reset from any state holds of it. -/
theorem State.reset_eq_resetCore : State.reset = State.reset.resetCore := rfl

@[simp] theorem State.resetCore_pc (s : State) : s.resetCore.pc = 0x200 := rfl
@[simp] theorem State.resetCore_idx (s : State) : s.resetCore.idx = 0 := rfl
@[simp] theorem State.resetCore_dt (s : State) : s.resetCore.dt = 0 := rfl
@[simp] theorem State.resetCore_sp (s : State) : s.resetCore.sp = 0 := rfl
@[simp] theorem State.resetCore_halted (s : State) : s.resetCore.halted = false := rfl
@[simp] theorem State.resetCore_cause (s : State) : s.resetCore.cause = 0 := rfl
@[simp] theorem State.resetCore_finfo (s : State) : s.resetCore.finfo = 0 := rfl

@[simp] theorem State.resetCore_reg (s : State) (i : Reg) : s.resetCore.reg i = 0 :=
  Vector.getElem_replicate i.isLt

@[simp] theorem State.resetCore_stackAt (s : State) (k : BitVec 4) : s.resetCore.stackAt k = 0 :=
  Vector.getElem_replicate k.isLt

/-- Reset leaves the framebuffer that CLS leaves. -/
@[simp] theorem State.resetCore_fbGet (s : State) (px py : Nat) : s.resetCore.fbGet px py = false :=
  State.fbGet_fbClear s px py

/-- Reset lists no byte, so every address reads as initialised. -/
@[simp] theorem State.resetCore_readByte (s : State) (a : Nat) : s.resetCore.readByte a = Memory.initial a :=
  Memory.read_nil a

end Sys2Proof.Machine

open Sys2Proof Sys2Proof.Machine

/-- Settles O54: both kinds of state are `s'.resetCore` for some `s'`, and each observation of that is a lemma above. -/
theorem resetLeavesTheResetState : Obligations.ResetLeavesTheResetState := by
  unfold Obligations.ResetLeavesTheResetState
  intro s r h
  obtain ⟨s', rfl⟩ : ∃ s', r = State.resetCore s' :=
    h.elim (fun hr => ⟨s, hr⟩) (fun hr => ⟨State.reset, hr.trans State.reset_eq_resetCore⟩)
  exact ⟨s'.resetCore_pc, s'.resetCore_reg, s'.resetCore_idx, s'.resetCore_dt, s'.resetCore_sp,
    s'.resetCore_stackAt, s'.resetCore_fbGet,
    fun a _ => (s'.resetCore_readByte a).trans (Memory.initial_eq_glyph_or_zero a),
    s'.resetCore_halted, s'.resetCore_cause, s'.resetCore_finfo⟩

end

section
/-! PROOFS. The fetch (spec/20_memory.md R55, R56): when it faults, the word it answers, and the cycle of a fetch that
faults. -/

namespace Sys2Proof.Machine

theorem fetchable_eq_false_iff (a : Word) :
    fetchable a = false ↔ a.toNat % 2 = 1 ∨ a.toNat < 0x200 ∨ 0x1000 ≤ a.toNat := by
  rw [← Bool.not_eq_true, fetchable_iff]
  omega

theorem State.fetchOpcode_of_fetchable {s : State} (h : fetchable s.pc = true) :
    s.fetchOpcode = .ok (s.readWord s.pc.toNat) := if_pos h

theorem State.fetchOpcode_of_not_fetchable {s : State} (h : fetchable s.pc = false) :
    s.fetchOpcode = .error ⟨.fetchFault, s.pc⟩ := if_neg (Bool.eq_false_iff.mp h)

/-- The first byte of a word weighs 256 (R55). -/
theorem State.readWord_toNat (s : State) (a : Nat) :
    (s.readWord a).toNat = 256 * (s.readByte a).toNat + (s.readByte (a + 1)).toNat := by
  rw [State.readWord, BitVec.toNat_append, ← Nat.shiftLeft_add_eq_or_of_lt (BitVec.isLt _), Nat.shiftLeft_eq,
    Nat.mul_comm]

@[simp] theorem State.highByte_readWord (s : State) (a : Nat) : Op.highByte (s.readWord a) = s.readByte a :=
  Op.highByte_append _ _

@[simp] theorem State.lowByte_readWord (s : State) (a : Nat) : Op.lowByte (s.readWord a) = s.readByte (a + 1) :=
  Op.lowByte_append _ _

theorem Kept.trans {s t u : State} {p : Part} (hst : Kept s t p) (htu : Kept t u p) : Kept s u p := by
  cases p <;> simp_all [Kept]

/-- A cycle that ends in a fault replaces the latch and the inputs only (R191). -/
theorem State.raise_nextInputs_kept (s : State) (f : FaultReport) :
    KeptExcept s (s.raise f).nextInputs [.latch, .inputs] := by
  intro p hp
  obtain ⟨_, _, _, hraise⟩ := s.raise_faulted f
  rw [List.mem_cons, not_or] at hp
  obtain ⟨hlatch, hinputs⟩ := hp
  exact (hraise p (mt List.mem_singleton.mp hlatch)).trans ((s.raise f).nextInputs_kept p hinputs)

/-- The second outcome of R100: a running core whose `pc` fails the checks of R56. -/
theorem step_of_not_fetchable {s : State} (hrun : s.halted = false) (hpc : fetchable s.pc = false) :
    step s = .next (s.raise ⟨.fetchFault, s.pc⟩).nextInputs := by
  rcases step_cases s with ⟨h, _⟩ | ⟨_, _, hstep⟩ | ⟨_, h, _⟩ | ⟨_, h, _⟩
  · exact absurd (hrun.symm.trans h) Bool.false_ne_true
  · exact hstep
  · exact absurd (hpc.symm.trans h) Bool.false_ne_true
  · exact absurd (hpc.symm.trans h) Bool.false_ne_true

end Sys2Proof.Machine

open Sys2Proof Sys2Proof.Machine

/-- Settles O10: the condition on `pc` is `fetchable s.pc = false`, and 0x1000 being even, the last fetchable address
is 0xFFE. -/
theorem fetchFaultOnUnfetchablePc : Obligations.FetchFaultOnUnfetchablePc := by
  unfold Obligations.FetchFaultOnUnfetchablePc
  intro s
  split
  case isTrue hbad =>
    have hpc : fetchable s.pc = false := (fetchable_eq_false_iff s.pc).mpr hbad
    refine ⟨State.fetchOpcode_of_not_fetchable hpc, fun hrun =>
      ⟨_, step_of_not_fetchable hrun hpc, ?_, ?_, ?_, s.raise_nextInputs_kept _⟩⟩
    · rw [State.nextInputs_halted, State.raise_halted]
    · rw [State.nextInputs_cause, State.raise_cause, Cause.code]
    · rw [State.nextInputs_finfo, State.raise_finfo]
  case isFalse hgood =>
    have hpc : fetchable s.pc = true := by
      rwa [← fetchable_eq_false_iff, Bool.not_eq_false] at hgood
    exact ⟨by omega, by omega, _, State.fetchOpcode_of_fetchable hpc⟩

/-- Settles O12: what the fetch answers is `readWord` at `pc`, whose value and bytes are the lemmas above. -/
theorem fetchReadsBigEndian : Obligations.FetchReadsBigEndian := by
  unfold Obligations.FetchReadsBigEndian
  intro s hpc
  exact ⟨_, State.fetchOpcode_of_fetchable hpc, s.readWord_toNat _, s.highByte_readWord _, s.lowByte_readWord _⟩

end

section
/-! PROOFS. The second level of decode (spec/30_encoding.md R85 to R88): families 0x8, 0xE and 0xF as tables over the
field they dispatch on. The last case of each split is the unrecognised codes, which differ from every table entry. -/

namespace Sys2Proof

/-- Family 0x8 as the table of R86 over the low nibble. -/
theorem decodeFam8_xyn (x y : Reg) (n : BitVec 4) :
    decodeFam8 (0x8#4 ++ x ++ y ++ n) =
      if n = 0x0 then .ok (.ldReg x y) else if n = 0x1 then .ok (.orReg x y) else if n = 0x2 then .ok (.andReg x y)
      else if n = 0x3 then .ok (.xorReg x y) else if n = 0x4 then .ok (.addReg x y)
      else if n = 0x5 then .ok (.subReg x y) else if n = 0x6 then .ok (.shr x)
      else if n = 0x7 then .ok (.subnReg x y) else if n = 0xE then .ok (.shl x)
      else .error (.illegalOpcode (0x8#4 ++ x ++ y ++ n)) := by
  simp only [decodeFam8, Op.x_xyn, Op.y_xyn, Op.n_xyn, ← BitVec.toNat_inj]
  split
  case h_10 => simp_all
  all_goals next hn => simp [hn]

/-- Family 0xE as the table of R87 over the low byte. -/
theorem decodeFamE_xkk (x : Reg) (kk : Byte) :
    decodeFamE (0xE#4 ++ x ++ kk) =
      if kk = 0x9E then .ok (.skp x) else if kk = 0xA1 then .ok (.sknp x)
      else .error (.illegalOpcode (0xE#4 ++ x ++ kk)) := by
  simp only [decodeFamE, Op.x_xkk, Op.kk_xkk, ← BitVec.toNat_inj]
  split
  case h_3 => simp_all
  all_goals next hkk => simp [hkk]

/-- Family 0xF as the table of R88 over the low byte. -/
theorem decodeFamF_xkk (x : Reg) (kk : Byte) :
    decodeFamF (0xF#4 ++ x ++ kk) =
      if kk = 0x07 then .ok (.ldVxDt x) else if kk = 0x0A then .ok (.ldVxK x) else if kk = 0x15 then .ok (.ldDtVx x)
      else if kk = 0x1E then .ok (.addI x) else if kk = 0x29 then .ok (.ldF x) else if kk = 0x33 then .ok (.ldB x)
      else if kk = 0x55 then .ok (.storeRegs x) else if kk = 0x65 then .ok (.loadRegs x)
      else .error (.illegalOpcode (0xF#4 ++ x ++ kk)) := by
  simp only [decodeFamF, Op.x_xkk, Op.kk_xkk, ← BitVec.toNat_inj]
  split
  case h_9 => simp_all
  all_goals next hkk => simp [hkk]

end Sys2Proof

open Sys2Proof Sys2Proof.Machine

/-- Settles O5: the first level hands over to the second by the family, and family 0's second level is the comparison
of R85 as it stands. -/
theorem secondLevelDecode : Obligations.SecondLevelDecode := by
  unfold Obligations.SecondLevelDecode
  refine ⟨fun op hfam => ?_, fun x y n => ?_, fun x kk => ?_, fun x kk => ?_⟩
  · obtain ⟨h0, -, -, -⟩ := decodeWord_two_level op
    exact h0 hfam
  · obtain ⟨-, h8, -, -⟩ := decodeWord_two_level (0x8#4 ++ x ++ y ++ n)
    rw [h8 (Op.fam_xyn _ x y n), decodeFam8_xyn]
  · obtain ⟨-, -, hE, -⟩ := decodeWord_two_level (0xE#4 ++ x ++ kk)
    rw [hE (Op.fam_xkk _ x kk), decodeFamE_xkk]
  · obtain ⟨-, -, -, hF⟩ := decodeWord_two_level (0xF#4 ++ x ++ kk)
    rw [hF (Op.fam_xkk _ x kk), decodeFamF_xkk]

end

section
/-! PROOFS. A halted core (spec/40_cycle.md R101, spec/60_exceptions.md R193): its cycles do nothing, a program load
reaches memory only, and Reset releases it. -/

namespace Sys2Proof.Machine

/-- The first outcome of R100. -/
theorem step_of_halted {s : State} (h : s.halted = true) : step s = .next s := if_pos h

/-- A state that one step leaves as it is stays through any number of steps. -/
theorem core_run_of_step_self (M : Host.Core) {s : M.State} (h : M.step s = .next s) (k : Nat) :
    M.run k s = .next s := by
  induction k with
  | zero => rfl
  | succ k ih =>
    rw [Host.Core.run, h]
    exact ih

theorem cycleResult_of_halted {before : State} (h : before.halted = true) (after : State) :
    cycleResult before after = .halted before.cause := if_pos h

theorem Kept.refl (s : State) (p : Part) : Kept s s p := by
  cases p <;> simp [Kept]

theorem State.storeBytes_kept (s : State) (a : Nat) (bs : List Byte) : KeptExcept s (s.storeBytes a bs) [.mem] := by
  intro p hp
  cases p <;> simp_all [Kept]

/-- A program that fits is copied to 0x200 (R233): 3584 is the room from there to the end of memory. -/
theorem State.loadProgram_of_fits (s : State) {bytes : List Byte} (h : bytes.length ≤ 3584) :
    s.loadProgram bytes = (.ok, s.storeBytes 0x200 bytes) :=
  if_neg (show ¬ 0x1000 < 0x200 + bytes.length by omega)

/-- A program that does not fit is refused before anything is written (R234). -/
theorem State.loadProgram_of_too_large (s : State) {bytes : List Byte} (h : 3584 < bytes.length) :
    s.loadProgram bytes = (.programTooLarge, s) :=
  if_pos (show 0x1000 < 0x200 + bytes.length by omega)

/-- Whether it fits or not, a program load touches memory only. -/
theorem State.loadProgram_kept (s : State) (bytes : List Byte) : KeptExcept s (s.loadProgram bytes).2 [.mem] := by
  rcases Nat.lt_or_ge 3584 bytes.length with hlarge | hfits
  · rw [s.loadProgram_of_too_large hlarge]
    exact fun p _ => Kept.refl s p
  · rw [s.loadProgram_of_fits hfits]
    exact s.storeBytes_kept 0x200 bytes

/-- After a load the bytes from 0x200 upward are the program's. -/
theorem State.readByte_loadProgram (s : State) {bytes : List Byte} (h : bytes.length ≤ 3584) {k : Nat}
    (hk : k < bytes.length) : (s.loadProgram bytes).2.readByte (0x200 + k) = bytes.getD k 0 := by
  rw [s.loadProgram_of_fits h, State.readByte_storeBytes, if_pos (by omega), Nat.add_sub_cancel_left]

end Sys2Proof.Machine

open Sys2Proof Sys2Proof.Machine

/-- Settles O9: a halted state is a fixed point of `step`, a load keeps all but memory, and Reset writes the latch. -/
theorem haltedUntilReset : Obligations.HaltedUntilReset := by
  unfold Obligations.HaltedUntilReset
  intro s h
  refine ⟨core_run_of_step_self core (step_of_halted h), cycleResult_of_halted h s, fun bytes => ?_,
    s.resetCore_halted, s.resetCore_cause, s.resetCore_finfo⟩
  obtain ⟨hhalted, hcause, hfinfo⟩ := s.loadProgram_kept bytes .latch (by decide)
  exact ⟨hhalted.trans h, hcause, hfinfo, fun hfits =>
    ⟨congrArg Prod.fst (s.loadProgram_of_fits hfits), fun _ hk => s.readByte_loadProgram hfits hk⟩⟩

end

section
/-! PROOFS. How `pc` advances (spec/40_cycle.md R108): every instruction outside the set of R108 commits an advance by
2, and waiting for a key (spec/46_timer_index_block.md R171) is the one that may commit nothing. -/

namespace Sys2Proof.Machine

theorem lowestKey_eq_none_iff (keys : BitVec 16) : lowestKey keys = none ↔ keys = 0 := by
  rw [lowestKey_none]
  constructor
  · intro h
    exact BitVec.eq_of_getLsbD_eq fun k _ => by rw [h k, BitVec.ofNat_eq_ofNat, BitVec.getLsbD_zero]
  · rintro rfl k
    exact BitVec.getLsbD_zero

/-- LD Vx,K with no key pressed does nothing at all (R171). -/
theorem exec_ldVxK_of_no_key (x : Reg) {s : State} (h : s.keys = 0) : exec (.ldVxK x) s = .next s := by
  rw [exec, execLdVxK, (lowestKey_eq_none_iff s.keys).mpr h]

/-- LD Vx,K with a key pressed writes `x[X]` and goes on (R171). -/
theorem exec_ldVxK_of_key (x : Reg) {s : State} (h : s.keys ≠ 0) :
    ∃ v, exec (.ldVxK x) s = .next ((s.setReg x v).advance 2) := by
  obtain ⟨k, hk⟩ := Option.ne_none_iff_exists'.mp (mt (lowestKey_eq_none_iff s.keys).mp h)
  exact ⟨BitVec.ofNat 8 k, by rw [exec, execLdVxK, hk]⟩

/-- What an instruction outside the set of R108 commits is, but for a key wait, an advance by 2 of a state whose `pc`
it has left alone; it commits that at once, or after the checks of R192. -/
theorem exec_commits_advance {i : Instr} {s : State} (hset : i.transfersOrSkips = false)
    (hkey : ∀ x, i = .ldVxK x → s.keys ≠ 0) :
    ∃ u : State, u.pc = s.pc ∧
      (exec i s = .next (u.advance 2) ∨ ∃ checks, exec i s = checked s checks (u.advance 2)) := by
  cases i
  case jp | call | ret | jpV0 | seImm | sneImm | seReg | sneReg | skp | sknp => cases hset
  case ldVxK x =>
    obtain ⟨v, hv⟩ := exec_ldVxK_of_key x (hkey x rfl)
    exact ⟨s.setReg x v, s.setReg_pc x v, .inl hv⟩
  case drw | ldF | ldB | storeRegs | loadRegs =>
    refine ⟨_, ?_, .inr ⟨_, rfl⟩⟩
    simp
  case cls | ldImm | addImm | ldReg | orReg | andReg | xorReg | addReg | subReg | shr | subnReg | shl | ldI | rnd
      | ldVxDt | ldDtVx | addI =>
    refine ⟨_, ?_, .inl rfl⟩
    simp

/-- An instruction that raised a fault is halted, so one that completes has committed. -/
theorem checked_completes {s t u : State} {checks : List (Option FaultReport)} (h : checked s checks t = .next u)
    (hrun : u.halted = false) : u = t := by
  rcases checked_cases h with ⟨f, -, rfl⟩ | ⟨-, hu⟩
  · cases hrun
  · exact hu

theorem exec_pc_of_completes {i : Instr} {s t : State} (h : exec i s = .next t) (hrun : t.halted = false)
    (hset : i.transfersOrSkips = false) (hkey : ∀ x, i = .ldVxK x → s.keys ≠ 0) : t.pc = s.pc + 2 := by
  obtain ⟨u, hpc, hnext | ⟨checks, hchecked⟩⟩ := exec_commits_advance hset hkey
  · obtain rfl : t = u.advance 2 := Host.Outcome.next.inj (h.symm.trans hnext)
    rw [State.advance_pc, hpc]
  · rw [checked_completes (hchecked.symm.trans h) hrun, State.advance_pc, hpc]

end Sys2Proof.Machine

open Sys2Proof Sys2Proof.Machine

/-- Settles O46: the advance is the lemma above, and a key wait with no key pressed answers the state it was given. -/
theorem pcAdvancesByTwo : Obligations.PcAdvancesByTwo := by
  unfold Obligations.PcAdvancesByTwo
  intro i s t h _ hrun hset
  refine ⟨exec_pc_of_completes h hrun hset, ?_⟩
  rintro ⟨x, rfl⟩ hkeys
  obtain rfl : t = s := Host.Outcome.next.inj (h.symm.trans (exec_ldVxK_of_no_key x hkeys))
  rfl

end

section
/-! PROOFS. Family 0x0 and control transfer (spec/41_flow.md R110 to R115): the frame of each operation the five
instructions are made of, what each instruction answers in each of its cases, and the call depth. -/

namespace Sys2Proof.Machine

/-! ### Frames -/

/-- Frames compose: a list that covers both frames is a frame of the two changes together. -/
theorem KeptExcept.trans {s t u : State} {ps qs rs : List Part} (hst : KeptExcept s t ps) (htu : KeptExcept t u qs)
    (hps : ps ⊆ rs) (hqs : qs ⊆ rs) : KeptExcept s u rs :=
  fun p hp => (hst p fun h => hp (hps h)).trans (htu p fun h => hp (hqs h))

theorem State.setPc_kept (s : State) (v : Word) : KeptExcept s (s.setPc v) [.pc] := by
  intro p hp
  cases p <;> simp_all [Kept]

theorem State.advance_kept (s : State) (k : Word) : KeptExcept s (s.advance k) [.pc] := by
  intro p hp
  cases p <;> simp_all [Kept]

theorem State.fbClear_kept (s : State) : KeptExcept s s.fbClear [.fb] := by
  intro p hp
  cases p <;> simp_all [Kept]

theorem State.push_kept (s : State) (a : Word) : KeptExcept s (s.push a) [.stack] := by
  intro p hp
  cases p <;> simp_all [Kept]

theorem State.dropTop_kept (s : State) : KeptExcept s s.dropTop [.stack] := by
  intro p hp
  cases p <;> simp_all [Kept]

/-! ### What CLS, JP and JP V0 answer -/

theorem exec_cls (s : State) : exec .cls s = .next (s.fbClear.advance 2) := rfl

theorem exec_jp (nnn : Addr12) (s : State) : exec (.jp nnn) s = .next (s.setPc (zextAddr nnn)) := rfl

theorem exec_jpV0 (nnn : Addr12) (s : State) :
    exec (.jpV0 nnn) s = .next (s.setPc (zextAddr nnn + zextByte (s.reg 0))) := rfl

/-! ### What RET and CALL answer -/

theorem State.popCheck_of_empty {s : State} (h : s.sp = 0) : s.popCheck = some ⟨.stackUnderflow, 0⟩ := if_pos h

theorem State.popCheck_of_nonempty {s : State} (h : s.sp ≠ 0) : s.popCheck = none := if_neg h

theorem State.pushCheck_of_full {s : State} (a : Word) (h : s.sp = 15) :
    s.pushCheck a = some ⟨.stackOverflow, a⟩ := if_pos (congrArg BitVec.toNat h)

theorem State.pushCheck_of_room {s : State} (a : Word) (h : s.sp ≠ 15) : s.pushCheck a = none :=
  if_neg fun hsp => h (BitVec.eq_of_toNat_eq hsp)

theorem exec_ret_of_empty {s : State} (h : s.sp = 0) : exec .ret s = .next (s.raise ⟨.stackUnderflow, 0⟩) := by
  rw [exec, execRet, checked_eq, firstFault_single, State.popCheck_of_empty h, Option.elim_some]

theorem exec_ret_of_nonempty {s : State} (h : s.sp ≠ 0) :
    exec .ret s = .next (s.dropTop.setPc (s.stackAt s.sp + 2)) := by
  rw [exec, execRet, checked_eq, firstFault_single, State.popCheck_of_nonempty h, Option.elim_none, State.peek]

theorem exec_call_of_full (nnn : Addr12) {s : State} (h : s.sp = 15) :
    exec (.call nnn) s = .next (s.raise ⟨.stackOverflow, s.pc⟩) := by
  rw [exec, execCall, checked_eq, firstFault_single, State.pushCheck_of_full s.pc h, Option.elim_some]

theorem exec_call_of_room (nnn : Addr12) {s : State} (h : s.sp ≠ 15) :
    exec (.call nnn) s = .next ((s.push s.pc).setPc (zextAddr nnn)) := by
  rw [exec, execCall, checked_eq, firstFault_single, State.pushCheck_of_room s.pc h, Option.elim_none]

/-! ### The call depth and the jump target over the integers -/

theorem State.push_sp_toNat {s : State} (a : Word) (h : s.sp ≠ 15) : (s.push a).sp.toNat = s.sp.toNat + 1 := by
  rw [State.push_sp]
  bv_omega

theorem State.dropTop_sp_toNat {s : State} (h : s.sp ≠ 0) : s.dropTop.sp.toNat + 1 = s.sp.toNat := by
  rw [State.dropTop_sp]
  bv_omega

/-- A 12-bit address plus a byte is below 2^16, so the sum of R114 never wraps. -/
theorem zextAddr_add_zextByte_toNat (nnn : Addr12) (b : Byte) :
    (zextAddr nnn + zextByte b).toNat = nnn.toNat + b.toNat := by
  rw [BitVec.toNat_add, zextAddr_toNat, zextByte_toNat]
  omega

end Sys2Proof.Machine

open Sys2Proof Sys2Proof.Machine

/-- Settles O16: clearing the framebuffer writes that alone, and the advance `pc` alone. -/
theorem clsClearsTheFramebuffer : Obligations.ClsClearsTheFramebuffer := by
  unfold Obligations.ClsClearsTheFramebuffer
  exact ⟨rfl, fun s => ⟨_, exec_cls s, s.fbGet_fbClear, rfl,
    s.fbClear_kept.trans (s.fbClear.advance_kept 2) (by simp) (by simp)⟩⟩

/-- Settles O17: Pop lowers `sp` and leaves every entry, and `pc` is set from the entry `sp` pointed at. -/
theorem retPopsAndAddsTwo : Obligations.RetPopsAndAddsTwo := by
  unfold Obligations.RetPopsAndAddsTwo
  refine ⟨rfl, fun s => ?_⟩
  by_cases hsp : s.sp = 0
  · simp only [if_pos hsp]
    exact ⟨_, exec_ret_of_empty hsp, s.raise_faulted _⟩
  · simp only [if_neg hsp]
    exact ⟨_, exec_ret_of_nonempty hsp, State.setPc_pc _ _, State.dropTop_sp_toNat hsp, s.dropTop_stackAt,
      s.dropTop_kept.trans (s.dropTop.setPc_kept _) (by simp) (by simp)⟩

/-- Settles O18: `pc` is set to the operand, whatever it is. -/
theorem jpReplacesPc : Obligations.JpReplacesPc := by
  unfold Obligations.JpReplacesPc
  intro nnn
  obtain ⟨hdecode, -, -, -⟩ := decodeWord_addr nnn
  exact ⟨hdecode, fun s => ⟨_, exec_jp nnn s, zextAddr_toNat nnn, s.setPc_kept _⟩⟩

/-- Settles O19: Push raises `sp` and writes the entry at the new `sp` alone, and `pc` is set after it. -/
theorem callPushesItsOwnAddress : Obligations.CallPushesItsOwnAddress := by
  unfold Obligations.CallPushesItsOwnAddress
  intro nnn
  obtain ⟨-, hdecode, -, -⟩ := decodeWord_addr nnn
  refine ⟨hdecode, fun s => ?_⟩
  by_cases hsp : s.sp = 15
  · simp only [if_pos hsp]
    exact ⟨_, exec_call_of_full nnn hsp, s.raise_faulted _⟩
  · simp only [if_neg hsp]
    exact ⟨_, exec_call_of_room nnn hsp, zextAddr_toNat nnn, State.push_sp_toNat s.pc hsp, s.stackAt_push s.pc,
      (s.push_kept s.pc).trans ((s.push s.pc).setPc_kept _) (by simp) (by simp)⟩

/-- Settles O20: `pc` is set to a sum that never wraps. -/
theorem jpV0AddsRegisterZero : Obligations.JpV0AddsRegisterZero := by
  unfold Obligations.JpV0AddsRegisterZero
  intro nnn
  obtain ⟨-, -, -, hdecode⟩ := decodeWord_addr nnn
  exact ⟨hdecode, fun s => ⟨_, exec_jpV0 nnn s, zextAddr_add_zextByte_toNat nnn (s.reg 0), s.setPc_kept _⟩⟩

end

section
/-! PROOFS. The conditional skips (spec/42_skip.md R120 to R126): what each of the six instructions answers, where the
two kinds of skip leave `pc`, and the key index check. -/

namespace Sys2Proof

/-- The two words of family 0xE that are instructions (R87). -/
theorem decodeWord_key_skips (x : Reg) :
    decodeWord (0xE#4 ++ x ++ 0x9E#8) = .ok (.skp x) ∧ decodeWord (0xE#4 ++ x ++ 0xA1#8) = .ok (.sknp x) := by
  have hE (kk : Byte) : decodeWord (0xE#4 ++ x ++ kk) = decodeFamE (0xE#4 ++ x ++ kk) := by
    obtain ⟨-, -, hE, -⟩ := decodeWord_two_level (0xE#4 ++ x ++ kk)
    exact hE (Op.fam_xkk _ x kk)
  constructor
  · rw [hE, decodeFamE_xkk]
    exact if_pos rfl
  · rw [hE, decodeFamE_xkk, if_neg (by decide)]
    exact if_pos rfl

end Sys2Proof

namespace Sys2Proof.Machine

/-! ### What the six skips answer -/

theorem exec_seImm (x : Reg) (kk : Byte) (s : State) :
    exec (.seImm x kk) s = .next (s.skipIf (s.reg x == kk)) := rfl

theorem exec_sneImm (x : Reg) (kk : Byte) (s : State) :
    exec (.sneImm x kk) s = .next (s.skipIf (s.reg x != kk)) := rfl

theorem exec_seReg (x y : Reg) (s : State) :
    exec (.seReg x y) s = .next (s.skipIf (s.reg x == s.reg y)) := rfl

theorem exec_sneReg (x y : Reg) (s : State) :
    exec (.sneReg x y) s = .next (s.skipIf (s.reg x != s.reg y)) := rfl

theorem exec_skp (x : Reg) (s : State) :
    exec (.skp x) s = checked s [keyCheck (s.reg x)] (s.skipOrStay (s.keyDown (s.reg x))) := rfl

theorem exec_sknp (x : Reg) (s : State) :
    exec (.sknp x) s = checked s [keyCheck (s.reg x)] (s.skipOrStay (!s.keyDown (s.reg x))) := rfl

/-! ### The register and immediate skips -/

theorem State.skipIf_kept (s : State) (taken : Bool) : KeptExcept s (s.skipIf taken) [.pc] :=
  s.advance_kept _

theorem State.skipIf_beq_pc (s : State) (a b : Byte) :
    (s.skipIf (a == b)).pc = s.pc + (if a.toNat = b.toNat then 4 else 2) := by
  simp only [State.skipIf_pc, beq_iff_eq, BitVec.toNat_inj]

theorem State.skipIf_bne_pc (s : State) (a b : Byte) :
    (s.skipIf (a != b)).pc = s.pc + (if a.toNat = b.toNat then 2 else 4) := by
  simp only [State.skipIf_pc, bne_iff_ne, ite_not, BitVec.toNat_inj]

/-! ### The key skips -/

theorem keyCheck_of_large {k : Byte} (h : 15 < k.toNat) :
    keyCheck k = some ⟨.keyIndexOutOfRange, zextByte k⟩ := if_pos h

theorem keyCheck_of_key {k : Byte} (h : ¬ 15 < k.toNat) : keyCheck k = none := if_neg h

/-- The two key skips are one operation that differs in its condition: fault, advance by 4, or leave the state as it
is (R124, R125). -/
theorem checked_keyCheck_skipOrStay (s : State) (k : Byte) (taken : Bool) :
    ∃ t, checked s [keyCheck k] (s.skipOrStay taken) = .next t ∧
      if 15 < k.toNat then Faulted s t 8 (k.setWidth 16)
      else if taken = true then (t.pc = s.pc + 4 ∧ KeptExcept s t [.pc])
      else t = s := by
  rw [checked_eq, firstFault_single]
  refine ⟨_, rfl, ?_⟩
  by_cases hk : 15 < k.toNat
  · rw [if_pos hk, keyCheck_of_large hk]
    exact s.raise_faulted _
  · rw [if_neg hk, keyCheck_of_key hk, Option.elim_none]
    cases taken with
    | true => exact ⟨rfl, s.advance_kept 4⟩
    | false => rfl

end Sys2Proof.Machine

open Sys2Proof Sys2Proof.Machine

/-- Settles O23: both instructions are the checked key skip, SKNP with the condition negated. -/
theorem skipOnKeyOrStay : Obligations.SkipOnKeyOrStay := by
  unfold Obligations.SkipOnKeyOrStay
  intro x
  obtain ⟨hskp, hsknp⟩ := decodeWord_key_skips x
  refine ⟨hskp, hsknp, fun s => ⟨?_, ?_⟩⟩
  · rw [exec_skp]
    exact checked_keyCheck_skipOrStay s (s.reg x) (s.keyDown (s.reg x))
  · have h := checked_keyCheck_skipOrStay s (s.reg x) (!s.keyDown (s.reg x))
    simp only [Bool.not_eq_true'] at h
    rw [exec_sknp]
    exact h

/-- Settles O21: the skip is taken on equality of the two bytes for SE, on inequality for SNE. -/
theorem skipOnImmediate : Obligations.SkipOnImmediate := by
  unfold Obligations.SkipOnImmediate
  intro x kk
  obtain ⟨hse, hsne, -⟩ := decodeWord_xkk x kk
  exact ⟨hse, hsne, fun s =>
    ⟨⟨_, exec_seImm x kk s, s.skipIf_beq_pc _ _, s.skipIf_kept _⟩,
      ⟨_, exec_sneImm x kk s, s.skipIf_bne_pc _ _, s.skipIf_kept _⟩⟩⟩

/-- Settles O22: as for the immediates, with a second register read and the low nibble left out of the decode. -/
theorem skipOnRegisters : Obligations.SkipOnRegisters := by
  unfold Obligations.SkipOnRegisters
  intro x y
  refine ⟨fun n => ?_, fun s =>
    ⟨⟨_, exec_seReg x y s, s.skipIf_beq_pc _ _, s.skipIf_kept _⟩,
      ⟨_, exec_sneReg x y s, s.skipIf_bne_pc _ _, s.skipIf_kept _⟩⟩⟩
  obtain ⟨hse, hsne, -⟩ := decodeWord_xyn x y n
  exact ⟨hse, hsne⟩

end

section
/-! PROOFS. The immediate instructions (spec/43_immediate.md R130 to R133): each writes one register or `I` and goes
on to the next instruction. -/

namespace Sys2Proof.Machine

/-! ### Frames and reads of a write followed by an advance -/

theorem State.setReg_kept (s : State) (i : Reg) (v : Byte) : KeptExcept s (s.setReg i v) [.regs] := by
  intro p hp
  cases p <;> simp_all [Kept]

theorem State.setIdx_kept (s : State) (v : Word) : KeptExcept s (s.setIdx v) [.idx] := by
  intro p hp
  cases p <;> simp_all [Kept]

theorem State.setReg_advance_kept (s : State) (i : Reg) (v : Byte) (k : Word) :
    KeptExcept s ((s.setReg i v).advance k) [.regs, .pc] :=
  (s.setReg_kept i v).trans ((s.setReg i v).advance_kept k) (by simp) (by simp)

theorem State.setIdx_advance_kept (s : State) (v k : Word) :
    KeptExcept s ((s.setIdx v).advance k) [.idx, .pc] :=
  (s.setIdx_kept v).trans ((s.setIdx v).advance_kept k) (by simp) (by simp)

theorem State.setReg_advance_reg (s : State) (i : Reg) (v : Byte) (k : Word) (j : Reg) :
    ((s.setReg i v).advance k).reg j = if j = i then v else s.reg j :=
  s.reg_setReg i j v

/-! ### What the four instructions answer -/

theorem exec_ldImm (x : Reg) (kk : Byte) (s : State) :
    exec (.ldImm x kk) s = .next ((s.setReg x kk).advance 2) := rfl

theorem exec_addImm (x : Reg) (kk : Byte) (s : State) :
    exec (.addImm x kk) s = .next ((s.setReg x (addBytes (s.reg x) kk)).advance 2) := rfl

theorem exec_ldI (nnn : Addr12) (s : State) :
    exec (.ldI nnn) s = .next ((s.setIdx (zextAddr nnn)).advance 2) := rfl

theorem exec_rnd (x : Reg) (kk : Byte) (s : State) :
    exec (.rnd x kk) s = .next ((s.setReg x (s.rnd &&& kk)).advance 2) := rfl

end Sys2Proof.Machine

open Sys2Proof Sys2Proof.Machine

/-- Settles O24: one register write, then the advance. -/
theorem loadImmediate : Obligations.LoadImmediate := by
  unfold Obligations.LoadImmediate
  intro x kk
  obtain ⟨-, -, hdecode, -, -⟩ := decodeWord_xkk x kk
  exact ⟨hdecode, fun s =>
    ⟨_, exec_ldImm x kk s, s.setReg_advance_reg x kk 2, rfl, s.setReg_advance_kept x kk 2⟩⟩

/-- Settles O25: the one register written receives the sum of two bytes, which wraps; register 15 is written only
when it is `X`. -/
theorem addImmediateWrapsWithoutFlag : Obligations.AddImmediateWrapsWithoutFlag := by
  unfold Obligations.AddImmediateWrapsWithoutFlag
  intro x kk
  obtain ⟨-, -, -, hdecode, -⟩ := decodeWord_xkk x kk
  refine ⟨hdecode, fun s => ⟨_, exec_addImm x kk s, fun i => ?_, rfl, s.setReg_advance_kept x _ 2⟩⟩
  rw [State.setReg_advance_reg, apply_ite BitVec.toNat, addBytes_eq, BitVec.toNat_add]

/-- Settles O26: the operand is zero-extended, so its value is that of `I`. -/
theorem loadIndexImmediate : Obligations.LoadIndexImmediate := by
  unfold Obligations.LoadIndexImmediate
  intro nnn
  obtain ⟨-, -, hdecode, -⟩ := decodeWord_addr nnn
  exact ⟨hdecode, fun s =>
    ⟨_, exec_ldI nnn s, zextAddr_toNat nnn, rfl, s.setIdx_advance_kept (zextAddr nnn) 2⟩⟩

/-- Settles O27: the one register written receives the conjunction of the cycle's byte and the mask. -/
theorem randomIsMasked : Obligations.RandomIsMasked := by
  unfold Obligations.RandomIsMasked
  intro x kk
  obtain ⟨-, -, -, -, hdecode⟩ := decodeWord_xkk x kk
  refine ⟨hdecode, fun s =>
    ⟨_, exec_rnd x kk s, fun b => ?_, fun i hi => ?_, rfl, s.setReg_advance_kept x _ 2⟩⟩
  · rw [State.setReg_advance_reg, if_pos rfl, BitVec.getLsbD_and]
  · rw [State.setReg_advance_reg, if_neg hi]

end

section
/-! PROOFS. Family 0x8, register-register ALU (spec/44_alu.md R140 to R150): the nine words, what the nine instructions
answer, the frame and the registers after the two orders of result and flag, and the arithmetic over the integers. -/

namespace Sys2Proof

/-- The nine low nibbles of family 0x8 that are instructions (R86). -/
theorem decodeWord_alu (x y : Reg) :
    decodeWord (0x8#4 ++ x ++ y ++ 0x0#4) = .ok (.ldReg x y) ∧
    decodeWord (0x8#4 ++ x ++ y ++ 0x1#4) = .ok (.orReg x y) ∧
    decodeWord (0x8#4 ++ x ++ y ++ 0x2#4) = .ok (.andReg x y) ∧
    decodeWord (0x8#4 ++ x ++ y ++ 0x3#4) = .ok (.xorReg x y) ∧
    decodeWord (0x8#4 ++ x ++ y ++ 0x4#4) = .ok (.addReg x y) ∧
    decodeWord (0x8#4 ++ x ++ y ++ 0x5#4) = .ok (.subReg x y) ∧
    decodeWord (0x8#4 ++ x ++ y ++ 0x6#4) = .ok (.shr x) ∧
    decodeWord (0x8#4 ++ x ++ y ++ 0x7#4) = .ok (.subnReg x y) ∧
    decodeWord (0x8#4 ++ x ++ y ++ 0xE#4) = .ok (.shl x) := by
  have h8 (n : BitVec 4) : decodeWord (0x8#4 ++ x ++ y ++ n) = decodeFam8 (0x8#4 ++ x ++ y ++ n) := by
    obtain ⟨-, h8, -, -⟩ := decodeWord_two_level (0x8#4 ++ x ++ y ++ n)
    exact h8 (Op.fam_xyn _ x y n)
  simp [h8, decodeFam8_xyn]

end Sys2Proof

namespace Sys2Proof.Machine

/-! ### What the nine instructions answer -/

theorem exec_ldReg (x y : Reg) (s : State) :
    exec (.ldReg x y) s = .next ((s.setReg x (s.reg y)).advance 2) := rfl

theorem exec_orReg (x y : Reg) (s : State) :
    exec (.orReg x y) s = .next ((s.setReg x (s.reg x ||| s.reg y)).advance 2) := rfl

theorem exec_andReg (x y : Reg) (s : State) :
    exec (.andReg x y) s = .next ((s.setReg x (s.reg x &&& s.reg y)).advance 2) := rfl

theorem exec_xorReg (x y : Reg) (s : State) :
    exec (.xorReg x y) s = .next ((s.setReg x (s.reg x ^^^ s.reg y)).advance 2) := rfl

theorem exec_addReg (x y : Reg) (s : State) :
    exec (.addReg x y) s =
      .next ((s.resultThenFlag x (addBytes (s.reg x) (s.reg y)) (carryOut (s.reg x) (s.reg y))).advance 2) := rfl

theorem exec_subReg (x y : Reg) (s : State) :
    exec (.subReg x y) s =
      .next ((s.resultThenFlag x (subBytes (s.reg x) (s.reg y)) (borrowOut (s.reg x) (s.reg y))).advance 2) := rfl

theorem exec_shr (x : Reg) (s : State) :
    exec (.shr x) s = .next ((s.flagThenResult x (shiftRight (s.reg x)) (lowBit (s.reg x))).advance 2) := rfl

theorem exec_subnReg (x y : Reg) (s : State) :
    exec (.subnReg x y) s =
      .next ((s.resultThenFlag x (subBytes (s.reg y) (s.reg x)) (borrowOut (s.reg y) (s.reg x))).advance 2) := rfl

theorem exec_shl (x : Reg) (s : State) :
    exec (.shl x) s = .next ((s.flagThenResult x (shiftLeft (s.reg x)) (highBit (s.reg x))).advance 2) := rfl

/-! ### Result and flag, in either order, then the advance -/

theorem State.setFlag_kept (s : State) (f : Bool) : KeptExcept s (s.setFlag f) [.regs] :=
  s.setReg_kept flagReg (flagByte f)

theorem State.resultThenFlag_advance_kept (s : State) (x : Reg) (v : Byte) (f : Bool) (k : Word) :
    KeptExcept s ((s.resultThenFlag x v f).advance k) [.regs, .pc] :=
  have hregs : KeptExcept s (s.resultThenFlag x v f) [.regs] :=
    (s.setReg_kept x v).trans ((s.setReg x v).setFlag_kept f) (List.Subset.refl _) (List.Subset.refl _)
  hregs.trans (State.advance_kept _ k) (by simp) (by simp)

theorem State.flagThenResult_advance_kept (s : State) (x : Reg) (v : Byte) (f : Bool) (k : Word) :
    KeptExcept s ((s.flagThenResult x v f).advance k) [.regs, .pc] :=
  have hregs : KeptExcept s (s.flagThenResult x v f) [.regs] :=
    (s.setFlag_kept f).trans ((s.setFlag f).setReg_kept x v) (List.Subset.refl _) (List.Subset.refl _)
  hregs.trans (State.advance_kept _ k) (by simp) (by simp)

/-- With `X = 15` the flag remains (R140). -/
theorem State.resultThenFlag_advance_reg_toNat (s : State) (x : Reg) (v : Byte) (f : Bool) (k : Word) (i : Reg) :
    (((s.resultThenFlag x v f).advance k).reg i).toNat =
      if i = 15 then (if f = true then 1 else 0) else if i = x then v.toNat else (s.reg i).toNat := by
  rw [State.advance_reg, State.reg_resultThenFlag, apply_ite BitVec.toNat, apply_ite BitVec.toNat, flagByte_toNat]
  rfl

/-- With `X = 15` the result remains (R140). -/
theorem State.flagThenResult_advance_reg_toNat (s : State) (x : Reg) (v : Byte) (f : Bool) (k : Word) (i : Reg) :
    (((s.flagThenResult x v f).advance k).reg i).toNat =
      if i = x then v.toNat else if i = 15 then (if f = true then 1 else 0) else (s.reg i).toNat := by
  rw [State.advance_reg, State.reg_flagThenResult, apply_ite BitVec.toNat, apply_ite BitVec.toNat, flagByte_toNat]
  rfl

/-! ### Results and flags over the integers -/

theorem addBytes_toNat (a b : Byte) : (addBytes a b).toNat = (a.toNat + b.toNat) % 256 := by
  rw [addBytes_eq, BitVec.toNat_add]

theorem subBytes_toNat (a b : Byte) : (subBytes a b).toNat = (256 + a.toNat - b.toNat) % 256 := by
  rw [subBytes_eq, BitVec.toNat_sub]
  omega

theorem carryOut_iff (a b : Byte) : carryOut a b = true ↔ 255 < a.toNat + b.toNat := decide_eq_true_iff

theorem borrowOut_iff (a b : Byte) : borrowOut a b = true ↔ a.toNat < b.toNat := by
  rw [borrowOut_eq, decide_eq_true_iff]

theorem shiftRight_toNat (a : Byte) : (shiftRight a).toNat = a.toNat / 2 := by
  rw [shiftRight, BitVec.toNat_ushiftRight, Nat.shiftRight_eq_div_pow, pow_one]

theorem shiftLeft_toNat (a : Byte) : (shiftLeft a).toNat = 2 * a.toNat % 256 := by
  rw [shiftLeft, BitVec.toNat_shiftLeft, Nat.shiftLeft_eq, pow_one, Nat.mul_comm]

theorem lowBit_iff (a : Byte) : lowBit a = true ↔ a.toNat % 2 = 1 := by
  rw [lowBit, BitVec.getLsbD, Nat.testBit_zero, decide_eq_true_iff]

/-- A byte is below 256, so bit 7 is its quotient by 128. -/
theorem highBit_iff (a : Byte) : highBit a = true ↔ a.toNat / 128 = 1 := by
  have ha : a.toNat < 256 := a.isLt
  rw [highBit, BitVec.getLsbD, Nat.testBit_eq_decide_div_mod_eq, decide_eq_true_iff]
  omega

theorem ite_lowBit (a : Byte) : (if lowBit a = true then 1 else 0) = a.toNat % 2 := by
  simp only [lowBit_iff]
  split <;> omega

theorem ite_highBit (a : Byte) : (if highBit a = true then 1 else 0) = a.toNat / 128 := by
  have ha : a.toNat < 256 := a.isLt
  simp only [highBit_iff]
  split <;> omega

/-! ### The copy and the bitwise instructions -/

/-- LD, OR, AND and XOR are one operation that differs in its function of two bits: one register write, of the byte
that function gives, and no flag (R141 to R144). -/
theorem exec_bitwise (x y : Reg) (s : State) {i : Instr} {f : Bool → Bool → Bool}
    (h : (i, f) ∈ [(Instr.ldReg x y, fun _ b => b), (Instr.orReg x y, fun a b => a || b),
      (Instr.andReg x y, fun a b => a && b), (Instr.xorReg x y, fun a b => a ^^ b)]) :
    ∃ v : Byte, exec i s = .next ((s.setReg x v).advance 2) ∧
      ∀ b, v.getLsbD b = f ((s.reg x).getLsbD b) ((s.reg y).getLsbD b) := by
  simp only [List.mem_cons, Prod.mk.injEq, List.not_mem_nil, or_false] at h
  obtain ⟨rfl, rfl⟩ | ⟨rfl, rfl⟩ | ⟨rfl, rfl⟩ | ⟨rfl, rfl⟩ := h
  · exact ⟨_, exec_ldReg x y s, fun _ => rfl⟩
  · exact ⟨_, exec_orReg x y s, fun _ => BitVec.getLsbD_or⟩
  · exact ⟨_, exec_andReg x y s, fun _ => BitVec.getLsbD_and⟩
  · exact ⟨_, exec_xorReg x y s, fun _ => BitVec.getLsbD_xor⟩

end Sys2Proof.Machine

open Sys2Proof Sys2Proof.Machine

/-- Settles O29: the sum is written first, the carry second. -/
theorem addSetsCarry : Obligations.AddSetsCarry := by
  unfold Obligations.AddSetsCarry
  intro x y
  obtain ⟨-, -, -, -, hdecode, -⟩ := decodeWord_alu x y
  refine ⟨hdecode, fun s => ⟨_, exec_addReg x y s, fun i => ?_, rfl, s.resultThenFlag_advance_kept x _ _ 2⟩⟩
  simp only [State.resultThenFlag_advance_reg_toNat, carryOut_iff, addBytes_toNat]

/-- Settles O30: the difference is written first, the borrow second. -/
theorem subSetsBorrow : Obligations.SubSetsBorrow := by
  unfold Obligations.SubSetsBorrow
  intro x y
  obtain ⟨-, -, -, -, -, hdecode, -⟩ := decodeWord_alu x y
  refine ⟨hdecode, fun s => ⟨_, exec_subReg x y s, fun i => ?_, rfl, s.resultThenFlag_advance_kept x _ _ 2⟩⟩
  simp only [State.resultThenFlag_advance_reg_toNat, borrowOut_iff, subBytes_toNat]

/-- Settles O31: the low bit is written first, the half second; the word's `Y` is left out of the decode. -/
theorem shrCapturesLowBit : Obligations.ShrCapturesLowBit := by
  unfold Obligations.ShrCapturesLowBit
  intro x
  refine ⟨fun y => ?_, fun s =>
    ⟨_, exec_shr x s, fun i => ?_, rfl, s.flagThenResult_advance_kept x _ _ 2⟩⟩
  · obtain ⟨-, -, -, -, -, -, hdecode, -⟩ := decodeWord_alu x y
    exact hdecode
  · rw [State.flagThenResult_advance_reg_toNat, ite_lowBit, shiftRight_toNat]

/-- Settles O32: SUB with the two operands exchanged. -/
theorem subnSetsBorrow : Obligations.SubnSetsBorrow := by
  unfold Obligations.SubnSetsBorrow
  intro x y
  obtain ⟨-, -, -, -, -, -, -, hdecode, -⟩ := decodeWord_alu x y
  refine ⟨hdecode, fun s => ⟨_, exec_subnReg x y s, fun i => ?_, rfl, s.resultThenFlag_advance_kept x _ _ 2⟩⟩
  simp only [State.resultThenFlag_advance_reg_toNat, borrowOut_iff, subBytes_toNat]

/-- Settles O33: bit 7 is written first, the double second; the word's `Y` is left out of the decode. -/
theorem shlCapturesHighBit : Obligations.ShlCapturesHighBit := by
  unfold Obligations.ShlCapturesHighBit
  intro x
  refine ⟨fun y => ?_, fun s =>
    ⟨_, exec_shl x s, fun i => ?_, rfl, s.flagThenResult_advance_kept x _ _ 2⟩⟩
  · obtain ⟨-, -, -, -, -, -, -, -, hdecode⟩ := decodeWord_alu x y
    exact hdecode
  · rw [State.flagThenResult_advance_reg_toNat, ite_highBit, shiftLeft_toNat]

/-- Settles O28: all four are the one bitwise write, which leaves the other registers. -/
theorem copyAndLogic : Obligations.CopyAndLogic := by
  unfold Obligations.CopyAndLogic
  intro x y
  obtain ⟨hld, hor, hand, hxor, -⟩ := decodeWord_alu x y
  refine ⟨hld, hor, hand, hxor, fun s i f hmem => ?_⟩
  obtain ⟨v, hexec, hbits⟩ := exec_bitwise x y s hmem
  refine ⟨_, hexec, fun b _ => ?_, fun r hr => ?_, rfl, s.setReg_advance_kept x v 2⟩
  · rw [State.setReg_advance_reg, if_pos rfl, hbits]
  · rw [State.setReg_advance_reg, if_neg hr]

end

section
/-! PROOFS. The sprite draw (spec/45_draw.md R160 to R164): which bit of the sprite hits which cell, the three outcomes
of DRW, and the state after the cells are drawn. -/

namespace Sys2Proof.Machine

/-! ### The cells a sprite hits -/

/-- The hit cells are the targets of the set bits: row `r`, column `c` targets `(vx + c, vy + r)` (R160). -/
theorem State.drawHits_iff (s : State) (x y : Reg) (n : BitVec 4) (px py : Nat) :
    s.drawHits x y n px py = true ↔
      ∃ r < n.toNat, ∃ c < 8, (s.readByte (s.idx.toNat + r)).getLsbD (7 - c) = true ∧
        px = (s.reg x).toNat + c ∧ py = (s.reg y).toNat + r := by
  simp only [State.drawHits, State.spriteHits, Bool.and_eq_true, decide_eq_true_eq]
  constructor
  · rintro ⟨⟨hx, hc, hy, hr⟩, hbit⟩
    exact ⟨py - (s.reg y).toNat, by omega, px - (s.reg x).toNat, by omega, hbit, by omega, by omega⟩
  · rintro ⟨r, hr, c, hc, hbit, rfl, rfl⟩
    refine ⟨by omega, ?_⟩
    rwa [Nat.add_sub_cancel_left, Nat.add_sub_cancel_left]

/-- Every cell the sprite hits is a cell of the grid, so phase 2 of R160 passes (R162). -/
def State.SpriteOnGrid (s : State) (x y : Reg) (n : BitVec 4) : Prop :=
  ∀ px py, s.drawHits x y n px py = true → px ≤ 63 ∧ py ≤ 63

theorem State.SpriteOnGrid.drawTargets_lt {s : State} {x y : Reg} {n : BitVec 4} (h : s.SpriteOnGrid x y n) :
    ∀ c ∈ s.drawTargets x y n, c.1 < 64 ∧ c.2 < 64 := by
  rintro ⟨px, py⟩ hc
  obtain ⟨hx, hy⟩ := h px py ((s.mem_drawTargets x y n px py).mp hc)
  exact ⟨by omega, by omega⟩

theorem State.drawTargets_nodup (s : State) (x y : Reg) (n : BitVec 4) : (s.drawTargets x y n).Nodup :=
  spriteCells_nodup _ _ _

/-- The collision condition of R161, said of the cells. -/
theorem State.any_drawTargets_on_iff (s : State) (x y : Reg) (n : BitVec 4) :
    (s.drawTargets x y n).any (fun c => s.fbGet c.1 c.2) = true ↔
      ∃ px py, s.drawHits x y n px py = true ∧ s.fbGet px py = true := by
  simp only [List.any_eq_true, Prod.exists, State.mem_drawTargets]

/-! ### The three outcomes of DRW -/

theorem gridCheck_of_outside (vx vy : Byte) {cells : List (Nat × Nat)} {c : Nat × Nat} (hc : c ∈ cells)
    (hout : 63 < c.1 ∨ 63 < c.2) : gridCheck vx vy cells = some ⟨.drawOutOfRange, vx ++ vy⟩ :=
  if_pos (List.any_eq_true.mpr ⟨c, hc, by simpa [outsideGrid] using hout⟩)

/-- DRW raises the first failing address check, else the failing coordinate check, else draws (R160). -/
theorem exec_drw (x y : Reg) (n : BitVec 4) (s : State) :
    exec (.drw x y n) s =
      .next (((firstFault ((s.effAddrs n.toNat).map memReadCheck)).or
        (gridCheck (s.reg x) (s.reg y) (s.drawTargets x y n))).elim
          ((s.drawCells (s.drawTargets x y n)).advance 2) s.raise) := by
  rw [exec, execDrw, checked_eq, firstFault_append, firstFault_single]

theorem exec_drw_of_bad_address (x y : Reg) {n : BitVec 4} {s : State} (hn : n ≠ 0)
    (haddr : 0x1000 < s.idx.toNat + n.toNat) :
    exec (.drw x y n) s =
      .next (s.raise ⟨.addressOutOfRange, if 0xFFF < s.idx.toNat then s.idx else 0x1000⟩) := by
  have hbad : ¬ (n.toNat = 0 ∨ s.idx.toNat + n.toNat ≤ 0x1000) :=
    not_or.mpr ⟨fun h => hn (BitVec.eq_of_toNat_eq h), by omega⟩
  rw [exec_drw, State.readChecks, if_neg hbad, Option.some_or, Option.elim_some]

/-- With every sprite address in memory the coordinate check alone decides. -/
theorem exec_drw_of_good_addresses (x y : Reg) {n : BitVec 4} {s : State}
    (haddr : n = 0 ∨ s.idx.toNat + n.toNat ≤ 0x1000) :
    exec (.drw x y n) s =
      .next ((gridCheck (s.reg x) (s.reg y) (s.drawTargets x y n)).elim
        ((s.drawCells (s.drawTargets x y n)).advance 2) s.raise) := by
  have hgood : n.toNat = 0 ∨ s.idx.toNat + n.toNat ≤ 0x1000 := haddr.imp_left (congrArg BitVec.toNat)
  rw [exec_drw, State.readChecks, if_pos hgood, Option.none_or]

theorem exec_drw_of_off_grid {x y : Reg} {n : BitVec 4} {s : State}
    (haddr : n = 0 ∨ s.idx.toNat + n.toNat ≤ 0x1000) {px py : Nat} (hhit : s.drawHits x y n px py = true)
    (hout : 63 < px ∨ 63 < py) :
    exec (.drw x y n) s = .next (s.raise ⟨.drawOutOfRange, s.reg x ++ s.reg y⟩) := by
  rw [exec_drw_of_good_addresses x y haddr,
    gridCheck_of_outside _ _ ((s.mem_drawTargets x y n px py).mpr hhit) hout, Option.elim_some]

theorem exec_drw_of_on_grid {x y : Reg} {n : BitVec 4} {s : State}
    (haddr : n = 0 ∨ s.idx.toNat + n.toNat ≤ 0x1000) (hgrid : s.SpriteOnGrid x y n) :
    exec (.drw x y n) s = .next ((s.drawCells (s.drawTargets x y n)).advance 2) := by
  rw [exec_drw_of_good_addresses x y haddr, (gridCheck_none _ _ _).mpr hgrid.drawTargets_lt, Option.elim_none]

/-- A sprite of height 0 has no address and no cell, so DRW comes down to resetting the flag (R163). -/
theorem exec_drw_height_zero (x y : Reg) (s : State) :
    exec (.drw x y 0) s = .next ((s.setReg 15 0).advance 2) := rfl

/-! ### The state after the cells are drawn -/

theorem State.drawCells_kept (s : State) (cs : List (Nat × Nat)) : KeptExcept s (s.drawCells cs) [.regs, .fb] := by
  intro p hp
  cases p <;> simp_all [Kept]

theorem State.drawCells_advance_kept (s : State) (cs : List (Nat × Nat)) (k : Word) :
    KeptExcept s ((s.drawCells cs).advance k) [.regs, .fb, .pc] :=
  (s.drawCells_kept cs).trans (State.advance_kept _ k) (by simp) (by simp)

theorem State.SpriteOnGrid.fbGet_drawn {s : State} {x y : Reg} {n : BitVec 4} (h : s.SpriteOnGrid x y n)
    (px py : Nat) :
    (s.drawCells (s.drawTargets x y n)).fbGet px py = (s.fbGet px py ^^ s.drawHits x y n px py) := by
  simp only [State.fbGet_drawCells s _ px py (s.drawTargets_nodup x y n) h.drawTargets_lt, State.mem_drawTargets,
    Bool.decide_eq_true]

theorem State.SpriteOnGrid.reg_drawn {s : State} {x y : Reg} {n : BitVec 4} (h : s.SpriteOnGrid x y n) (i : Reg) :
    (s.drawCells (s.drawTargets x y n)).reg i =
      if i = 15 then flagByte ((s.drawTargets x y n).any fun c => s.fbGet c.1 c.2) else s.reg i :=
  s.reg_drawCells _ i (s.drawTargets_nodup x y n) h.drawTargets_lt

/-- A hit cell that was on is a collision (R161). -/
theorem State.SpriteOnGrid.flag_drawn_of_collision {s : State} {x y : Reg} {n : BitVec 4}
    (h : s.SpriteOnGrid x y n) (hon : ∃ px py, s.drawHits x y n px py = true ∧ s.fbGet px py = true) :
    (s.drawCells (s.drawTargets x y n)).reg 15 = 1 := by
  rw [h.reg_drawn, if_pos rfl, (s.any_drawTargets_on_iff x y n).mpr hon]
  rfl

/-- Where every hit cell was off there is no collision (R161). -/
theorem State.SpriteOnGrid.flag_drawn_of_clear {s : State} {x y : Reg} {n : BitVec 4}
    (h : s.SpriteOnGrid x y n) (hoff : ∀ px py, s.drawHits x y n px py = true → s.fbGet px py = false) :
    (s.drawCells (s.drawTargets x y n)).reg 15 = 0 := by
  have hnone : ((s.drawTargets x y n).any fun c => s.fbGet c.1 c.2) = false := by
    rw [← Bool.not_eq_true, State.any_drawTargets_on_iff]
    rintro ⟨px, py, hhit, hon⟩
    exact Bool.false_ne_true ((hoff px py hhit).symm.trans hon)
  rw [h.reg_drawn, if_pos rfl, hnone]
  rfl

theorem State.SpriteOnGrid.reg_drawn_of_ne {s : State} {x y : Reg} {n : BitVec 4} (h : s.SpriteOnGrid x y n)
    {i : Reg} (hi : i ≠ 15) : (s.drawCells (s.drawTargets x y n)).reg i = s.reg i := by
  rw [h.reg_drawn, if_neg hi]

end Sys2Proof.Machine

open Sys2Proof Sys2Proof.Machine

/-- Settles O34: each clause's hypotheses fix which of the three outcomes the next state is. -/
theorem drawTogglesTheSprite : Obligations.DrawTogglesTheSprite := by
  unfold Obligations.DrawTogglesTheSprite
  intro x y n
  obtain ⟨-, -, hdecode⟩ := decodeWord_xyn x y n
  refine ⟨hdecode, fun s => ?_⟩
  obtain ⟨t, ht⟩ : ∃ t, exec (.drw x y n) s = .next t := ⟨_, exec_drw x y n s⟩
  refine ⟨t, ht, fun hn haddr => ?_, fun haddr hoff => ?_, fun haddr hgrid => ?_⟩
  · obtain rfl := Host.Outcome.next.inj (ht.symm.trans (exec_drw_of_bad_address x y hn haddr))
    exact s.raise_faulted _
  · obtain ⟨px, py, hhit, hout⟩ := hoff
    obtain rfl := Host.Outcome.next.inj (ht.symm.trans (exec_drw_of_off_grid haddr hhit hout))
    exact s.raise_faulted _
  · have h : s.SpriteOnGrid x y n := hgrid
    obtain rfl := Host.Outcome.next.inj (ht.symm.trans (exec_drw_of_on_grid haddr h))
    exact ⟨h.fbGet_drawn, h.flag_drawn_of_collision, h.flag_drawn_of_clear, fun _ => h.reg_drawn_of_ne,
      by rw [State.advance_pc, State.drawCells_pc], s.drawCells_advance_kept _ 2⟩

/-- Settles O35: a set bit and the cell it targets are related by `State.drawHits_iff`. -/
theorem drawOffGridFaults : Obligations.DrawOffGridFaults := by
  unfold Obligations.DrawOffGridFaults
  intro x y n s haddr
  constructor
  · rintro ⟨r, hr, c, hc, hbit, hout⟩
    have hhit := (s.drawHits_iff x y n _ _).mpr ⟨r, hr, c, hc, hbit, rfl, rfl⟩
    exact ⟨_, exec_drw_of_off_grid haddr hhit hout, s.raise_faulted _⟩
  · intro hbits
    have hgrid : s.SpriteOnGrid x y n := fun px py hhit => by
      obtain ⟨r, hr, c, hc, hbit, rfl, rfl⟩ := (s.drawHits_iff x y n px py).mp hhit
      exact hbits r hr c hc hbit
    exact ⟨_, exec_drw_of_on_grid haddr hgrid, by rw [State.advance_halted, State.drawCells_halted],
      by rw [State.advance_pc, State.drawCells_pc]⟩

/-- Settles O36: with no cell to draw, the flag's reset is the only write before the advance. -/
theorem drawHeightZero : Obligations.DrawHeightZero := by
  unfold Obligations.DrawHeightZero
  intro x y s
  exact ⟨_, exec_drw_height_zero x y s, s.setReg_advance_reg 15 0 2, rfl, s.setReg_advance_kept 15 0 2⟩

end

section
/-! PROOFS. Family 0xF (spec/46_timer_index_block.md R170 to R178): the eight words, the frames, what each instruction
answers in each of its cases, and the two shapes of a block access, checked address by address before it commits. -/

namespace Sys2Proof

/-- The eight low bytes of family 0xF that are instructions (R88). -/
theorem decodeWord_famF (x : Reg) :
    decodeWord (0xF#4 ++ x ++ 0x07#8) = .ok (.ldVxDt x) ∧ decodeWord (0xF#4 ++ x ++ 0x0A#8) = .ok (.ldVxK x) ∧
    decodeWord (0xF#4 ++ x ++ 0x15#8) = .ok (.ldDtVx x) ∧ decodeWord (0xF#4 ++ x ++ 0x1E#8) = .ok (.addI x) ∧
    decodeWord (0xF#4 ++ x ++ 0x29#8) = .ok (.ldF x) ∧ decodeWord (0xF#4 ++ x ++ 0x33#8) = .ok (.ldB x) ∧
    decodeWord (0xF#4 ++ x ++ 0x55#8) = .ok (.storeRegs x) ∧
    decodeWord (0xF#4 ++ x ++ 0x65#8) = .ok (.loadRegs x) := by
  have hF (kk : Byte) : decodeWord (0xF#4 ++ x ++ kk) = decodeFamF (0xF#4 ++ x ++ kk) := by
    obtain ⟨-, -, -, hF⟩ := decodeWord_two_level (0xF#4 ++ x ++ kk)
    exact hF (Op.fam_xkk _ x kk)
  simp [hF, decodeFamF_xkk]

end Sys2Proof

namespace Sys2Proof.Machine

/-! ### Frames -/

theorem State.setDt_kept (s : State) (v : Byte) : KeptExcept s (s.setDt v) [.dt] := by
  intro p hp
  cases p <;> simp_all [Kept]

theorem State.setRegs_kept (s : State) (k : Nat) (bs : List Byte) : KeptExcept s (s.setRegs k bs) [.regs] := by
  intro p hp
  cases p <;> simp_all [Kept]

/-- Moving `I` past a block and going on to the next instruction adds `I` and `pc` to a frame. -/
theorem KeptExcept.passBlock_advance {s t : State} {p : Part} (h : KeptExcept s t [p]) (x : Reg) (k : Word) :
    KeptExcept s ((t.passBlock x).advance k) [p, .idx, .pc] :=
  h.trans (t.setIdx_advance_kept _ k) (by simp) (by simp)

/-! ### What the eight instructions answer -/

theorem exec_ldVxDt (x : Reg) (s : State) : exec (.ldVxDt x) s = .next ((s.setReg x s.dt).advance 2) := rfl

theorem exec_ldVxK_of_lowestKey (x : Reg) {s : State} {k : Nat} (h : lowestKey s.keys = some k) :
    exec (.ldVxK x) s = .next ((s.setReg x (BitVec.ofNat 8 k)).advance 2) := by
  rw [exec, execLdVxK, h]

theorem exec_ldDtVx (x : Reg) (s : State) : exec (.ldDtVx x) s = .next ((s.setDt (s.reg x)).advance 2) := rfl

theorem exec_addI (x : Reg) (s : State) :
    exec (.addI x) s = .next ((s.setIdx (s.idx + zextByte (s.reg x))).advance 2) := rfl

theorem digitCheck_of_large {d : Byte} (h : 15 < d.toNat) :
    digitCheck d = some ⟨.glyphDigitOutOfRange, zextByte d⟩ := if_pos h

theorem digitCheck_of_digit {d : Byte} (h : ¬ 15 < d.toNat) : digitCheck d = none := if_neg h

theorem exec_ldF_of_large {x : Reg} {s : State} (h : 15 < (s.reg x).toNat) :
    exec (.ldF x) s = .next (s.raise ⟨.glyphDigitOutOfRange, zextByte (s.reg x)⟩) := by
  rw [exec, execLdF, checked_eq, firstFault_single, digitCheck_of_large h, Option.elim_some]

theorem exec_ldF_of_digit {x : Reg} {s : State} (h : ¬ 15 < (s.reg x).toNat) :
    exec (.ldF x) s = .next ((s.setIdx (glyphAddr (s.reg x).toNat)).advance 2) := by
  rw [exec, execLdF, checked_eq, firstFault_single, digitCheck_of_digit h, Option.elim_none]

theorem exec_ldB (x : Reg) (s : State) :
    exec (.ldB x) s = checked s ((s.effAddrs (2 + 1)).map memWriteCheck)
      ((s.storeBytes s.idx.toNat (bcdDigits (s.reg x))).advance 2) := rfl

theorem exec_storeRegs (x : Reg) (s : State) :
    exec (.storeRegs x) s = checked s ((s.effAddrs (x.toNat + 1)).map memWriteCheck)
      (((s.storeBytes s.idx.toNat (s.regBlock x)).passBlock x).advance 2) := rfl

theorem exec_loadRegs (x : Reg) (s : State) :
    exec (.loadRegs x) s = checked s ((s.effAddrs (x.toNat + 1)).map memReadCheck)
      (((s.setRegs 0 (s.readBlock (x.toNat + 1))).passBlock x).advance 2) := rfl

/-! ### Block accesses: every address is checked before the commit -/

/-- A write of the block `I` to `I + n`: a protected `I`, an address above 0xFFF, or the committed state, of which `P`
has to hold only when every address passed (R53, R175, R176). -/
theorem checked_writeBlock {P : State → Prop} (s commit : State) (n : Nat)
    (hcommit : s.idx.toNat + n ≤ 0xFFF → P commit) :
    ∃ t, checked s ((s.effAddrs (n + 1)).map memWriteCheck) commit = .next t ∧
      if s.idx.toNat < 0x200 then Faulted s t 3 s.idx
      else if 0xFFF < s.idx.toNat + n then Faulted s t 4 (if 0xFFF < s.idx.toNat then s.idx else 0x1000)
      else P t := by
  rw [checked_eq, State.writeChecks s (n + 1) n.succ_pos]
  refine ⟨_, rfl, ?_⟩
  by_cases hlow : s.idx.toNat < 0x200
  · rw [if_pos hlow, if_pos hlow]
    exact s.raise_faulted _
  · rw [if_neg hlow, if_neg hlow]
    by_cases hhigh : 0xFFF < s.idx.toNat + n
    · rw [if_pos hhigh, if_neg (by omega)]
      exact s.raise_faulted _
    · rw [if_neg hhigh, if_pos (by omega)]
      exact hcommit (by omega)

/-- A read of the block `I` to `I + n`: as the write, without the protection (R52, R177). -/
theorem checked_readBlock {P : State → Prop} (s commit : State) (n : Nat)
    (hcommit : s.idx.toNat + n ≤ 0xFFF → P commit) :
    ∃ t, checked s ((s.effAddrs (n + 1)).map memReadCheck) commit = .next t ∧
      if 0xFFF < s.idx.toNat + n then Faulted s t 4 (if 0xFFF < s.idx.toNat then s.idx else 0x1000)
      else P t := by
  rw [checked_eq, State.readChecks]
  refine ⟨_, rfl, ?_⟩
  by_cases hhigh : 0xFFF < s.idx.toNat + n
  · rw [if_pos hhigh, if_neg (by omega)]
    exact s.raise_faulted _
  · rw [if_neg hhigh, if_pos (by omega)]
    exact hcommit (by omega)

/-- A block that ends in memory leaves `I` at most 0x1000, so it does not wrap (R176, R177). -/
theorem State.passBlock_idx_toNat {s : State} {x : Reg} (h : s.idx.toNat + x.toNat ≤ 0xFFF) :
    (s.passBlock x).idx.toNat = s.idx.toNat + x.toNat + 1 := by
  rw [State.passBlock_idx, BitVec.toNat_ofNat, Nat.mod_eq_of_lt (by omega)]

/-! ### The register block (R176, R177) -/

theorem State.readByte_storeBytes_regBlock (s : State) (a : Nat) {x k : Reg} (h : k.toNat ≤ x.toNat) :
    (s.storeBytes a (s.regBlock x)).readByte (a + k.toNat) = s.reg k := by
  rw [State.readByte_storeBytes, State.length_regBlock, if_pos (by omega), Nat.add_sub_cancel_left,
    State.getD_regBlock s x _ h, BitVec.ofNat_toNat, BitVec.setWidth_eq]

theorem State.readByte_storeBytes_regBlock_of_outside (s : State) (a : Nat) {x : Reg} {b : Nat}
    (h : b < a ∨ a + x.toNat < b) : (s.storeBytes a (s.regBlock x)).readByte b = s.readByte b := by
  rw [State.readByte_storeBytes, State.length_regBlock, if_neg (by omega)]

theorem State.reg_setRegs_readBlock (s : State) (x k : Reg) :
    (s.setRegs 0 (s.readBlock (x.toNat + 1))).reg k =
      if k.toNat ≤ x.toNat then s.readByte (s.idx.toNat + k.toNat) else s.reg k := by
  have hx : x.toNat < 16 := x.isLt
  rw [State.reg_setRegs s 0 _ k (by rw [State.length_readBlock]; omega), State.length_readBlock]
  by_cases hk : k.toNat ≤ x.toNat
  · rw [if_pos hk, if_pos (by omega), Nat.sub_zero, State.getD_readBlock s _ _ (by omega)]
  · rw [if_neg hk, if_neg (by omega)]

/-! ### The decimal digits (R178) -/

/-- Every digit is below 256, so the three bytes hold the three quotients. -/
theorem bcdDigits_eq (v : Byte) :
    ∃ h t o : Byte, bcdDigits v = [h, t, o] ∧ h.toNat = v.toNat / 100 ∧ t.toNat = v.toNat / 10 % 10 ∧
      o.toNat = v.toNat % 10 := by
  have hv : v.toNat < 256 := v.isLt
  refine ⟨_, _, _, rfl, ?_, ?_, ?_⟩ <;>
    rw [BitVec.toNat_ofNat, Nat.mod_eq_of_lt (by omega)]

theorem State.readByte_storeBytes_three (s : State) (a b : Nat) (h t o : Byte) :
    (s.storeBytes a [h, t, o]).readByte b =
      if b = a then h else if b = a + 1 then t else if b = a + 2 then o else s.readByte b := by
  simp only [State.storeBytes, State.readByte_storeByte]
  by_cases h0 : b = a
  · simp [h0, show a ≠ a + 1 + 1 by omega]
  · by_cases h1 : b = a + 1 <;> simp [h0, h1]

theorem State.readByte_storeBytes_bcdDigits (s : State) (a b : Nat) (v : Byte) :
    ((s.storeBytes a (bcdDigits v)).readByte b).toNat =
      if b = a then v.toNat / 100 else if b = a + 1 then v.toNat / 10 % 10
      else if b = a + 2 then v.toNat % 10 else (s.readByte b).toNat := by
  obtain ⟨h, t, o, hdigits, hh, ht, ho⟩ := bcdDigits_eq v
  rw [hdigits, State.readByte_storeBytes_three, ← hh, ← ht, ← ho]
  simp only [apply_ite BitVec.toNat]

end Sys2Proof.Machine

open Sys2Proof Sys2Proof.Machine

/-- Settles O38: the keypad scan answers the lowest pressed key, or nothing when the snapshot is zero. -/
theorem waitForKeyTakesTheLowest : Obligations.WaitForKeyTakesTheLowest := by
  unfold Obligations.WaitForKeyTakesTheLowest
  intro x
  obtain ⟨-, hdecode, -⟩ := decodeWord_famF x
  refine ⟨hdecode, fun s => ⟨fun hnone => ?_, fun k hk hdown hleast => ?_⟩⟩
  · have hkeys : s.keys = 0 := BitVec.eq_of_getLsbD_eq fun k hk => by
      rw [hnone k hk, BitVec.ofNat_eq_ofNat, BitVec.getLsbD_zero]
    exact exec_ldVxK_of_no_key x hkeys
  · have hkey : lowestKey s.keys = some k := (lowestKey_some s.keys k).mpr ⟨hdown, hk, hleast⟩
    refine ⟨_, exec_ldVxK_of_lowestKey x hkey, fun i => ?_, rfl, s.setReg_advance_kept x _ 2⟩
    rw [State.setReg_advance_reg, apply_ite BitVec.toNat, BitVec.toNat_ofNat, Nat.mod_eq_of_lt (by omega)]

/-- Settles O42: a checked write of three bytes, which are the three digits. -/
theorem storeBcd : Obligations.StoreBcd := by
  unfold Obligations.StoreBcd
  intro x
  obtain ⟨-, -, -, -, -, hdecode, -⟩ := decodeWord_famF x
  refine ⟨hdecode, fun s => ?_⟩
  rw [exec_ldB]
  refine checked_writeBlock s _ 2 fun _ => ⟨fun a => ?_, ?_, ?_⟩
  · rw [State.advance_readByte, State.readByte_storeBytes_bcdDigits]
  · rw [State.advance_pc, State.storeBytes_pc]
  · exact (s.storeBytes_kept _ _).trans (State.advance_kept _ 2) (by simp) (by simp)

/-- Settles O43: a checked write of `X + 1` bytes, which are the registers, and `I` moves past them. -/
theorem storeRegisterBlock : Obligations.StoreRegisterBlock := by
  unfold Obligations.StoreRegisterBlock
  intro x
  obtain ⟨-, -, -, -, -, -, hdecode, -⟩ := decodeWord_famF x
  refine ⟨hdecode, fun s => ?_⟩
  rw [exec_storeRegs]
  refine checked_writeBlock s _ x.toNat fun hfits => ⟨fun k hk => ?_, fun a ha => ?_, ?_, ?_, ?_⟩
  · rw [State.advance_readByte, State.passBlock_readByte, State.readByte_storeBytes_regBlock s _ hk]
  · rw [State.advance_readByte, State.passBlock_readByte, State.readByte_storeBytes_regBlock_of_outside s _ ha]
  · have hidx := s.storeBytes_idx s.idx.toNat (s.regBlock x)
    rw [State.advance_idx, State.passBlock_idx_toNat (by rwa [hidx]), hidx]
  · rw [State.advance_pc, State.passBlock_pc, State.storeBytes_pc]
  · exact (s.storeBytes_kept _ _).passBlock_advance x 2

/-- Settles O44: a checked read of `X + 1` bytes into the registers, and `I` moves past them. -/
theorem loadRegisterBlock : Obligations.LoadRegisterBlock := by
  unfold Obligations.LoadRegisterBlock
  intro x
  obtain ⟨-, -, -, -, -, -, -, hdecode⟩ := decodeWord_famF x
  refine ⟨hdecode, fun s => ?_⟩
  rw [exec_loadRegs]
  refine checked_readBlock s _ x.toNat fun hfits => ⟨fun k => ?_, ?_, ?_, ?_⟩
  · rw [State.advance_reg, State.passBlock_reg, State.reg_setRegs_readBlock]
  · have hidx := s.setRegs_idx 0 (s.readBlock (x.toNat + 1))
    rw [State.advance_idx, State.passBlock_idx_toNat (by rwa [hidx]), hidx]
  · rw [State.advance_pc, State.passBlock_pc, State.setRegs_pc]
  · exact (s.setRegs_kept _ _).passBlock_advance x 2

/-- Settles O37: one register write of `dt`, then the advance. -/
theorem readDelayTimer : Obligations.ReadDelayTimer := by
  unfold Obligations.ReadDelayTimer
  intro x
  obtain ⟨hdecode, -⟩ := decodeWord_famF x
  exact ⟨hdecode, fun s =>
    ⟨_, exec_ldVxDt x s, s.setReg_advance_reg x s.dt 2, rfl, s.setReg_advance_kept x s.dt 2⟩⟩

/-- Settles O39: `dt` is written, then the advance. -/
theorem writeDelayTimer : Obligations.WriteDelayTimer := by
  unfold Obligations.WriteDelayTimer
  intro x
  obtain ⟨-, -, hdecode, -⟩ := decodeWord_famF x
  exact ⟨hdecode, fun s => ⟨_, exec_ldDtVx x s, rfl, rfl,
    (s.setDt_kept _).trans (State.advance_kept _ 2) (by simp) (by simp)⟩⟩

/-- Settles O40: the register is zero-extended and added to the 16-bit `I`. -/
theorem addToIndexWraps : Obligations.AddToIndexWraps := by
  unfold Obligations.AddToIndexWraps
  intro x
  obtain ⟨-, -, -, hdecode, -⟩ := decodeWord_famF x
  refine ⟨hdecode, fun s => ⟨_, exec_addI x s, ?_, rfl, s.setIdx_advance_kept _ 2⟩⟩
  rw [State.advance_idx, State.setIdx_idx, BitVec.toNat_add, zextByte_toNat]

/-- Settles O41: `GLYPH_BASE` is at most 0x1B0, so the last glyph starts at or below 0x1FB. -/
theorem glyphAddressOfDigit : Obligations.GlyphAddressOfDigit := by
  unfold Obligations.GlyphAddressOfDigit
  intro x
  obtain ⟨-, -, -, -, hdecode, -⟩ := decodeWord_famF x
  refine ⟨hdecode, fun s => ?_⟩
  by_cases hd : 15 < (s.reg x).toNat
  · simp only [if_pos hd]
    exact ⟨_, exec_ldF_of_large hd, s.raise_faulted _⟩
  · simp only [if_neg hd]
    have hbase := Config.glyphBase.isLt
    have haddr := glyphAddr_toNat (s.reg x).toNat (by omega)
    refine ⟨_, exec_ldF_of_digit hd, haddr, ?_, rfl, s.setIdx_advance_kept _ 2⟩
    rw [State.advance_idx, State.setIdx_idx, haddr]
    omega

/-- Settles O45: the bounds and the sum follow from the three quotients of a value below 256. -/
theorem bcdDigitsMakeTheValue : Obligations.BcdDigitsMakeTheValue := by
  unfold Obligations.BcdDigitsMakeTheValue
  intro v
  obtain ⟨h, t, o, hdigits, hh, ht, ho⟩ := bcdDigits_eq v
  have hv : v.toNat < 256 := v.isLt
  exact ⟨h, t, o, hdigits, by omega, by omega, by omega, by omega, hh, ht, ho⟩

end

section
/-! PROOFS. Taking a fault (spec/60_exceptions.md R191, R192, R195): an instruction is a check pass and a commit, the
first failing check is the only thing that halts it, and every report carries the information of R195. -/

namespace Sys2Proof

/-- The register operands of an instruction are the fields `X` and `Y` of the word (R81). -/
def Instr.RegsOf (op : Word) : Instr → Prop
  | .cls | .ret | .jp _ | .call _ | .ldI _ | .jpV0 _ => True
  | .seReg x y | .sneReg x y | .ldReg x y | .orReg x y | .andReg x y | .xorReg x y | .addReg x y | .subReg x y
  | .subnReg x y | .drw x y _ => x = Op.x op ∧ y = Op.y op
  | .seImm x _ | .sneImm x _ | .ldImm x _ | .addImm x _ | .rnd x _ | .shr x | .shl x | .skp x | .sknp x | .ldVxDt x
  | .ldVxK x | .ldDtVx x | .addI x | .ldF x | .ldB x | .storeRegs x | .loadRegs x => x = Op.x op

theorem decodeFam0_regsOf {op : Word} {i : Instr} (h : decodeFam0 op = .ok i) : i.RegsOf op := by
  unfold decodeFam0 at h
  split at h
  · cases h; exact trivial
  · split at h <;> cases h
    exact trivial

theorem decodeFam8_regsOf {op : Word} {i : Instr} (h : decodeFam8 op = .ok i) : i.RegsOf op := by
  unfold decodeFam8 at h
  split at h <;> cases h
  case h_7 | h_9 => exact rfl
  all_goals exact ⟨rfl, rfl⟩

theorem decodeFamE_regsOf {op : Word} {i : Instr} (h : decodeFamE op = .ok i) : i.RegsOf op := by
  unfold decodeFamE at h
  split at h <;> cases h <;> exact rfl

theorem decodeFamF_regsOf {op : Word} {i : Instr} (h : decodeFamF op = .ok i) : i.RegsOf op := by
  unfold decodeFamF at h
  split at h <;> cases h <;> exact rfl

/-- Decode takes the register operands from the word's own fields, whatever the family (R84 to R88). -/
theorem decodeWord_regsOf {op : Word} {i : Instr} (h : decodeWord op = .ok i) : i.RegsOf op := by
  unfold decodeWord at h
  split at h
  case h_1 => exact decodeFam0_regsOf h
  case h_9 => exact decodeFam8_regsOf h
  case h_15 => exact decodeFamE_regsOf h
  case h_16 => exact decodeFamF_regsOf h
  case h_2 | h_3 | h_11 | h_12 => cases h; exact trivial
  case h_6 | h_10 | h_14 => cases h; exact ⟨rfl, rfl⟩
  case h_4 | h_5 | h_7 | h_8 | h_13 => cases h; exact rfl

end Sys2Proof

namespace Sys2Proof.Machine

/-! ### The check pass of each instruction (R192) -/

/-- The checks an instruction makes before its first write, in pseudocode order; none for those that raise nothing of
their own (R194). -/
def State.checksOf (s : State) : Instr → List (Option FaultReport)
  | .ret => [s.popCheck]
  | .call _ => [s.pushCheck s.pc]
  | .skp x | .sknp x => [keyCheck (s.reg x)]
  | .ldF x => [digitCheck (s.reg x)]
  | .drw x y n => (s.effAddrs n.toNat).map memReadCheck ++ [gridCheck (s.reg x) (s.reg y) (s.drawTargets x y n)]
  | .ldB _ => (s.effAddrs 3).map memWriteCheck
  | .storeRegs x => (s.effAddrs (x.toNat + 1)).map memWriteCheck
  | .loadRegs x => (s.effAddrs (x.toNat + 1)).map memReadCheck
  | .cls | .jp _ | .jpV0 _ | .seImm _ _ | .sneImm _ _ | .seReg _ _ | .sneReg _ _ | .ldImm _ _ | .addImm _ _
  | .ldReg _ _ | .orReg _ _ | .andReg _ _ | .xorReg _ _ | .addReg _ _ | .subReg _ _ | .shr _ | .subnReg _ _
  | .shl _ | .ldI _ | .rnd _ _ | .ldVxDt _ | .ldVxK _ | .ldDtVx _ | .addI _ => []

/-- Every instruction is its check pass followed by a commit that does not halt (R192). -/
theorem exec_eq_checked (i : Instr) (s : State) :
    ∃ commit : State, commit.halted = s.halted ∧ exec i s = checked s (s.checksOf i) commit := by
  cases i
  case ldVxK x =>
    by_cases hkeys : s.keys = 0
    · exact ⟨s, rfl, exec_ldVxK_of_no_key x hkeys⟩
    · obtain ⟨v, hv⟩ := exec_ldVxK_of_key x hkeys
      exact ⟨(s.setReg x v).advance 2, rfl, hv⟩
  all_goals
    refine ⟨_, ?_, rfl⟩
    simp

/-- A running core that an instruction leaves halted has raised the first failing check (R191, R192). -/
theorem exec_raises {i : Instr} {s t : State} (h : exec i s = .next t) (hrun : s.halted = false)
    (hhalt : t.halted = true) : ∃ f, firstFault (s.checksOf i) = some f ∧ t = s.raise f := by
  obtain ⟨commit, hcommit, hchecked⟩ := exec_eq_checked i s
  rcases checked_cases (hchecked.symm.trans h) with hraised | ⟨-, rfl⟩
  · exact hraised
  · exact absurd ((hcommit.trans hrun).symm.trans hhalt) Bool.false_ne_true

/-! ### The information of each report (R195) -/

/-- The report carries the information R195 gives for its fault in this cycle. -/
def State.InfoOf (s : State) (f : FaultReport) : Prop := f.info = s.faultInfo f.cause

/-- A check of one condition makes one report only. -/
theorem State.infoOf_check {s : State} {p : Prop} [Decidable p] {report f : FaultReport}
    (h : (if p then some report else none) = some f) (hinfo : s.InfoOf report) : s.InfoOf f := by
  obtain ⟨-, hf⟩ := Option.ite_none_right_eq_some.mp h
  exact Option.some.inj hf ▸ hinfo

theorem State.infoOf_readChecks {s : State} {f : FaultReport} {n : Nat}
    (h : firstFault ((s.effAddrs n).map memReadCheck) = some f) : s.InfoOf f := by
  rw [State.readChecks] at h
  obtain ⟨-, hf⟩ := Option.ite_none_left_eq_some.mp h
  cases hf; rfl

theorem State.infoOf_writeChecks {s : State} {f : FaultReport} {n : Nat} (hn : 0 < n)
    (h : firstFault ((s.effAddrs n).map memWriteCheck) = some f) : s.InfoOf f := by
  rw [State.writeChecks s n hn] at h
  split at h
  · cases h; rfl
  · obtain ⟨-, hf⟩ := Option.ite_none_left_eq_some.mp h
    cases hf; rfl

/-- The report of an instruction whose register operands are those of the word at `pc` (R195). -/
theorem State.infoOf_firstFault {s : State} {i : Instr} {f : FaultReport} (hregs : i.RegsOf (s.readWord s.pc.toNat))
    (h : firstFault (s.checksOf i) = some f) : s.InfoOf f := by
  cases i
  case ret | call => exact infoOf_check ((firstFault_single _).symm.trans h) rfl
  case skp x | sknp x | ldF x =>
    obtain rfl : x = _ := hregs
    exact infoOf_check ((firstFault_single _).symm.trans h) rfl
  case drw x y n =>
    obtain ⟨rfl, rfl⟩ := hregs
    rw [State.checksOf, firstFault_append, firstFault_single] at h
    rcases Option.or_eq_some_iff.mp h with haddr | ⟨-, hgrid⟩
    · exact infoOf_readChecks haddr
    · exact infoOf_check hgrid rfl
  case ldB | storeRegs => exact infoOf_writeChecks (Nat.succ_pos _) h
  case loadRegs => exact infoOf_readChecks h
  all_goals cases h

/-! ### The cycle that faults -/

/-- A cycle that leaves a running core halted has raised one report, from the fetch, from decode or from the
instruction; beside that only the inputs it sampled are gone (R196). -/
theorem step_raises {s t : State} (h : step s = .next t) (hrun : s.halted = false) (hhalt : t.halted = true) :
    ∃ f, s.InfoOf f ∧ t = (s.raise f).nextInputs := by
  rcases step_cases s with ⟨hhalted, -⟩ | ⟨-, -, hstep⟩ | ⟨-, -, -, hstep⟩ | ⟨-, -, i, u, hdecode, hexec, hstep⟩
  · exact absurd (hrun.symm.trans hhalted) Bool.false_ne_true
  all_goals obtain rfl := Host.Outcome.next.inj (h.symm.trans hstep)
  · exact ⟨⟨.fetchFault, s.pc⟩, rfl, rfl⟩
  · exact ⟨⟨.illegalOpcode, s.readWord s.pc.toNat⟩, rfl, rfl⟩
  · rw [State.nextInputs_halted] at hhalt
    obtain ⟨f, hfault, rfl⟩ := exec_raises hexec hrun hhalt
    exact ⟨f, State.infoOf_firstFault (decodeWord_regsOf hdecode) hfault, rfl⟩

theorem cycleResult_of_raised {before after : State} (hrun : before.halted = false) (hhalt : after.halted = true) :
    cycleResult before after = .faulted after.cause := by
  rw [cycleResult, hrun, hhalt]; rfl

end Sys2Proof.Machine

open Sys2Proof Sys2Proof.Machine

/-- Settles O14: a cycle that halts is one `raise` with the information of R195, and so is an instruction that halts. -/
theorem faultChangesOnlyTheLatch : Obligations.FaultChangesOnlyTheLatch := by
  unfold Obligations.FaultChangesOnlyTheLatch
  constructor
  · intro s t h hrun hhalt
    obtain ⟨f, hinfo, rfl⟩ := step_raises h hrun hhalt
    have hcause : (s.raise f).nextInputs.cause = f.cause.code := by
      rw [State.nextInputs_cause, State.raise_cause]
    refine ⟨f.cause, hcause, ?_, ?_, s.raise_nextInputs_kept f, ?_⟩
    · rw [State.nextInputs_finfo, State.raise_finfo, hinfo]
    · rw [State.nextInputs_pc, State.raise_pc]
    · rw [cycleResult_of_raised hrun hhalt, hcause]
  · intro i s t h hrun hhalt
    obtain ⟨f, -, rfl⟩ := exec_raises h hrun hhalt
    exact ⟨f.cause, f.info, s.raise_faulted f⟩

end

section
/-! PROOFS. Decode against encode and against the opcode table (spec/30_encoding.md R80 to R93): the words of an
instruction, ignored bits and all, and the bits of a word that decide its row. -/

namespace Sys2Proof

/-! ### The words of an instruction -/

/-- The word of an instruction with `ig` in the nibble that decode ignores: the low nibble of 5XYn and 9XYn, the `Y`
nibble of 8XY6 and 8XYE (R86, R89); the other instructions have one word each. -/
def Instr.word (ig : BitVec 4) : Instr → Word
  | .seReg x y => 0x5#4 ++ x ++ y ++ ig
  | .sneReg x y => 0x9#4 ++ x ++ y ++ ig
  | .shr x => 0x8#4 ++ x ++ ig ++ 0x6#4
  | .shl x => 0x8#4 ++ x ++ ig ++ 0xE#4
  | i => encode i

/-- The canonical encoding holds the ignored bits at 0 (R93). -/
theorem Instr.word_zero (i : Instr) : i.word 0 = encode i := by
  cases i <;> rfl

theorem decodeWord_word (ig : BitVec 4) (i : Instr) : decodeWord (i.word ig) = .ok i := by
  cases i
  case cls => exact (rfl : decodeWord 0x00E0#16 = .ok .cls)
  case ret => exact (rfl : decodeWord 0x00EE#16 = .ok .ret)
  case jp | call | ldI | jpV0 => simp [Instr.word, encode, decodeWord_addr]
  case seImm | sneImm | ldImm | addImm | rnd => simp [Instr.word, encode, decodeWord_xkk]
  case seReg | sneReg | drw => simp [Instr.word, encode, decodeWord_xyn]
  case ldReg | orReg | andReg | xorReg | addReg | subReg | shr | subnReg | shl =>
    simp [Instr.word, encode, decodeWord_alu]
  case skp | sknp => simp [Instr.word, encode, decodeWord_key_skips]
  case ldVxDt | ldVxK | ldDtVx | addI | ldF | ldB | storeRegs | loadRegs =>
    simp [Instr.word, encode, decodeWord_famF]

theorem Instr.wellFormed_eq_true (i : Instr) : i.wellFormed = true := by
  cases i <;> simp [Instr.wellFormed]

/-- The two stored bytes of an instruction decode to it, whatever follows them (R80). -/
theorem decodeBytes_encodeBytes (i : Instr) (rest : List Byte) :
    decodeBytes (encodeBytes i ++ rest) = .ok (i, rest) := by
  rw [encodeBytes, decodeBytes_wordBytes, ← i.word_zero, decodeWord_word]

/-! ### A recognised word is a word of its instruction -/

/-- Family 0x0 recognises two words only. -/
theorem decodeFam0_word {op : Word} {i : Instr} (h : decodeFam0 op = .ok i) : ∃ ig, op = i.word ig := by
  unfold decodeFam0 at h
  split at h
  case isTrue hop => cases h; exact ⟨0, hop⟩
  case isFalse =>
    split at h <;> cases h
    case isTrue hop => exact ⟨0, hop⟩

theorem decodeFam8_word {x y : Reg} {n : BitVec 4} {i : Instr} (h : decodeFam8 (0x8#4 ++ x ++ y ++ n) = .ok i) :
    ∃ ig, 0x8#4 ++ x ++ y ++ n = i.word ig := by
  rw [decodeFam8_xyn] at h
  refine ⟨y, ?_⟩
  repeat' split at h
  all_goals cases h
  all_goals
    subst_vars
    rfl

theorem decodeFamE_word {x : Reg} {kk : Byte} {i : Instr} (h : decodeFamE (0xE#4 ++ x ++ kk) = .ok i) :
    ∃ ig, 0xE#4 ++ x ++ kk = i.word ig := by
  rw [decodeFamE_xkk] at h
  refine ⟨0, ?_⟩
  repeat' split at h
  all_goals cases h
  all_goals
    subst_vars
    rfl

theorem decodeFamF_word {x : Reg} {kk : Byte} {i : Instr} (h : decodeFamF (0xF#4 ++ x ++ kk) = .ok i) :
    ∃ ig, 0xF#4 ++ x ++ kk = i.word ig := by
  rw [decodeFamF_xkk] at h
  refine ⟨0, ?_⟩
  repeat' split at h
  all_goals cases h
  all_goals
    subst_vars
    rfl

theorem Op.eq_addr_of_fam {op : Word} {f : BitVec 4} (h : (Op.fam op).toNat = f.toNat) : op = f ++ Op.nnn op := by
  rw [← BitVec.eq_of_toNat_eq h, Op.eq_addr]

theorem Op.eq_xkk_of_fam {op : Word} {f : BitVec 4} (h : (Op.fam op).toNat = f.toNat) :
    op = f ++ Op.x op ++ Op.kk op := by
  rw [← BitVec.eq_of_toNat_eq h, Op.eq_xkk]

theorem Op.eq_xyn_of_fam {op : Word} {f : BitVec 4} (h : (Op.fam op).toNat = f.toNat) :
    op = f ++ Op.x op ++ Op.y op ++ Op.n op := by
  rw [← BitVec.eq_of_toNat_eq h, Op.eq_xyn]

/-- Decode loses the ignored bits and nothing else. -/
theorem exists_word_of_decodeWord {op : Word} {i : Instr} (h : decodeWord op = .ok i) : ∃ ig, op = i.word ig := by
  unfold decodeWord at h
  split at h
  case h_1 => exact decodeFam0_word h
  case h_2 hfam | h_3 hfam | h_11 hfam | h_12 hfam =>
    cases h
    exact ⟨0, Op.eq_addr_of_fam hfam⟩
  case h_4 hfam | h_5 hfam | h_7 hfam | h_8 hfam | h_13 hfam =>
    cases h
    exact ⟨0, Op.eq_xkk_of_fam hfam⟩
  case h_6 hfam | h_10 hfam | h_14 hfam =>
    cases h
    exact ⟨Op.n op, Op.eq_xyn_of_fam hfam⟩
  case h_9 hfam =>
    rw [Op.eq_xyn_of_fam (f := 0x8#4) hfam] at h ⊢
    exact decodeFam8_word h
  case h_15 hfam =>
    rw [Op.eq_xkk_of_fam (f := 0xE#4) hfam] at h ⊢
    exact decodeFamE_word h
  case h_16 =>
    have hfam : (Op.fam op).toNat = (0xF#4).toNat := by
      have hlt : (Op.fam op).toNat < 16 := (Op.fam op).isLt
      simp only [imp_false] at *
      show _ = 15
      omega
    rw [Op.eq_xkk_of_fam hfam] at h ⊢
    exact decodeFamF_word h

/-! ### The canonical form -/

/-- Comparing a word under the mask 0xF000 compares its family. -/
theorem Op.and_famMask_iff (op : Word) (f : BitVec 4) : op &&& 0xF000#16 = f ++ 0x000#12 ↔ Op.fam op = f := by
  constructor
  · intro h
    have hfam := congrArg Op.fam h
    rwa [← Op.eq_addr op, mask_addr, Op.fam_addr, Op.fam_addr] at hfam
  · rintro rfl
    conv_lhs => rw [← Op.eq_addr op]
    exact mask_addr _ _

/-- Comparing a word under the mask 0xF00F compares its family and its low nibble. -/
theorem Op.and_famLowMask_iff (op : Word) (f n : BitVec 4) :
    op &&& 0xF00F#16 = f ++ 0x0#4 ++ 0x0#4 ++ n ↔ Op.fam op = f ∧ Op.n op = n := by
  have h : op &&& 0xF00F#16 = Op.fam op ++ 0x0#4 ++ 0x0#4 ++ Op.n op := by
    conv_lhs => rw [← Op.eq_xyn op]
    exact (mask_xyn _ _ _ _ (BitVec.allOnes 4)).trans (by rw [BitVec.and_allOnes])
  rw [h]
  constructor
  · intro h
    have hfam := congrArg Op.fam h
    have hn := congrArg Op.n h
    rw [Op.fam_xyn, Op.fam_xyn] at hfam
    rw [Op.n_xyn, Op.n_xyn] at hn
    exact ⟨hfam, hn⟩
  · rintro ⟨rfl, rfl⟩
    rfl

/-- The comparisons of the canonical form are comparisons of fields. -/
theorem canonicalWord_eq (op : Word) :
    canonicalWord op =
      if Op.fam op = 0x5#4 ∨ Op.fam op = 0x9#4 then op &&& 0xFFF0#16
      else if Op.fam op = 0x8#4 ∧ Op.n op = 0x6#4 ∨ Op.fam op = 0x8#4 ∧ Op.n op = 0xE#4 then op &&& 0xFF0F#16
      else op := by
  have h5 : op &&& 0xF000#16 = 0x5000#16 ↔ _ := Op.and_famMask_iff op 0x5#4
  have h9 : op &&& 0xF000#16 = 0x9000#16 ↔ _ := Op.and_famMask_iff op 0x9#4
  have h86 : op &&& 0xF00F#16 = 0x8006#16 ↔ _ := Op.and_famLowMask_iff op 0x8#4 0x6#4
  have h8E : op &&& 0xF00F#16 = 0x800E#16 ↔ _ := Op.and_famLowMask_iff op 0x8#4 0xE#4
  simp only [canonicalWord, h5, h9, h86, h8E]

theorem mask_ignored_n (f x y n : BitVec 4) : (f ++ x ++ y ++ n) &&& 0xFFF0#16 = f ++ x ++ y ++ 0x0#4 := by
  have hkeep (v : BitVec 4) : v &&& 0xF#4 = v := BitVec.and_allOnes
  have e : (0xFFF0#16 : Word) = 0xF#4 ++ 0xF#4 ++ 0xF#4 ++ 0x0#4 := rfl
  rw [e, BitVec.and_append, BitVec.and_append, BitVec.and_append, hkeep, hkeep, hkeep, BitVec.and_zero]

theorem mask_ignored_y (f x y n : BitVec 4) : (f ++ x ++ y ++ n) &&& 0xFF0F#16 = f ++ x ++ 0x0#4 ++ n := by
  have hkeep (v : BitVec 4) : v &&& 0xF#4 = v := BitVec.and_allOnes
  have e : (0xFF0F#16 : Word) = 0xF#4 ++ 0xF#4 ++ 0x0#4 ++ 0xF#4 := rfl
  rw [e, BitVec.and_append, BitVec.and_append, BitVec.and_append, hkeep, hkeep, hkeep, BitVec.and_zero]

theorem canonicalWord_word (ig : BitVec 4) (i : Instr) : canonicalWord (i.word ig) = encode i := by
  cases i
  case cls => exact (by decide : canonicalWord 0x00E0#16 = 0x00E0#16)
  case ret => exact (by decide : canonicalWord 0x00EE#16 = 0x00EE#16)
  case seReg | sneReg => simp [canonicalWord_eq, Instr.word, encode, mask_ignored_n]
  case shr | shl => simp [canonicalWord_eq, Instr.word, encode, mask_ignored_y]
  all_goals simp [canonicalWord_eq, Instr.word, encode]

/-! ### The row of a word -/

/-- Every row's mask fixes the bits that its family dispatches on: the family itself, and the whole word, the low nibble
or the low byte in the families that have a second level (R84). -/
theorem opcodeTable_masks : ∀ r ∈ opcodeTable, Op.fam r.mask = 0xF#4 ∧
    (Op.fam r.pattern = 0x0#4 → r.mask = 0xFFFF#16) ∧ (Op.fam r.pattern = 0x8#4 → Op.n r.mask = 0xF#4) ∧
    (0xE ≤ (Op.fam r.pattern).toNat → Op.kk r.mask = 0xFF#8) := by
  decide

/-- The row of the instruction that a word decodes to, if it decodes to one. -/
def decodeRow (op : Word) : Option OpcodeRow := (decodeWord op).toOption.map Instr.row

/-- Each row's pattern decodes to an instruction of that row. -/
theorem opcodeTable_decodeRow : ∀ r ∈ opcodeTable, decodeRow r.pattern = some r := by
  decide

theorem Instr.row_mem (i : Instr) : i.row ∈ opcodeTable := by
  cases i <;> simp [Instr.row, opcodeTable, opcodeRowsLow, opcodeRowsAlu, opcodeRowsMid, opcodeRowsF]

/-- The bits a family dispatches on decide the row (R84 to R88). -/
theorem decodeRow_congr {op op' : Word} (hfam : Op.fam op = Op.fam op') (h0 : Op.fam op' = 0x0#4 → op = op')
    (h8 : Op.fam op' = 0x8#4 → Op.n op = Op.n op')
    (hEF : 0xE ≤ (Op.fam op').toNat → Op.kk op = Op.kk op') : decodeRow op = decodeRow op' := by
  unfold decodeRow decodeWord
  rw [hfam]
  split
  case h_1 h => rw [h0 (BitVec.eq_of_toNat_eq h)]
  case h_9 h =>
    unfold decodeFam8
    rw [h8 (BitVec.eq_of_toNat_eq h)]
    split <;> rfl
  case h_15 h =>
    unfold decodeFamE
    rw [hEF h.ge]
    split <;> rfl
  case h_16 =>
    unfold decodeFamF
    rw [hEF (by simp only [imp_false] at *; omega)]
    split <;> rfl
  all_goals rfl

/-- Every word of an instruction lies in the instruction's row. -/
theorem Instr.word_and_mask (ig : BitVec 4) (i : Instr) : i.word ig &&& i.row.mask = i.row.pattern := by
  cases i
  case cls => exact (by decide : 0x00E0#16 &&& 0xFFFF#16 = 0x00E0#16)
  case ret => exact (by decide : 0x00EE#16 &&& 0xFFFF#16 = 0x00EE#16)
  case jp | call | ldI | jpV0 => exact mask_addr _ _
  case seImm | sneImm | ldImm | addImm | rnd =>
    exact (mask_xkk _ _ _ 0x00#8).trans (by rw [BitVec.and_zero]; rfl)
  case seReg | sneReg | drw =>
    exact (mask_xyn _ _ _ _ 0x0#4).trans (by rw [BitVec.and_zero]; rfl)
  case ldReg | orReg | andReg | xorReg | addReg | subReg | shr | subnReg | shl =>
    exact mask_xyn _ _ _ _ 0xF#4
  case skp | sknp | ldVxDt | ldVxK | ldDtVx | addI | ldF | ldB | storeRegs | loadRegs =>
    exact mask_xkk _ _ _ 0xFF#8

theorem Op.fam_and (op m : Word) : Op.fam (op &&& m) = Op.fam op &&& Op.fam m := BitVec.extractLsb'_and
theorem Op.n_and (op m : Word) : Op.n (op &&& m) = Op.n op &&& Op.n m := BitVec.extractLsb'_and
theorem Op.kk_and (op m : Word) : Op.kk (op &&& m) = Op.kk op &&& Op.kk m := BitVec.extractLsb'_and

/-- A word in a row decodes to an instruction of that row: it agrees with the row's pattern on the bits the mask
fixes, and those decide. -/
theorem decodeRow_of_mem {op : Word} {r : OpcodeRow} (hr : r ∈ opcodeTable) (hop : op &&& r.mask = r.pattern) :
    decodeRow op = some r := by
  obtain ⟨hfam, h0, h8, hEF⟩ := opcodeTable_masks r hr
  rw [← opcodeTable_decodeRow r hr]
  refine decodeRow_congr ?_ (fun h => ?_) (fun h => ?_) (fun h => ?_)
  · rw [← hop, Op.fam_and, hfam]
    exact BitVec.and_allOnes.symm
  · rw [← hop, h0 h]
    exact BitVec.and_allOnes.symm
  · rw [← hop, Op.n_and, h8 h]
    exact BitVec.and_allOnes.symm
  · rw [← hop, Op.kk_and, hEF h]
    exact BitVec.and_allOnes.symm

theorem decodeRow_eq_some_iff {op : Word} {r : OpcodeRow} :
    decodeRow op = some r ↔ ∃ i, decodeWord op = .ok i ∧ i.row = r := by
  unfold decodeRow
  cases decodeWord op <;> simp [Except.toOption]

theorem row_of_decodeWord {op : Word} {i : Instr} (h : decodeWord op = .ok i) :
    i.row ∈ opcodeTable ∧ op &&& i.row.mask = i.row.pattern := by
  obtain ⟨ig, rfl⟩ := exists_word_of_decodeWord h
  exact ⟨i.row_mem, i.word_and_mask ig⟩

/-- Decode rejects a word by naming it (R90, R92). -/
theorem decodeWord_error {op : Word} {e : DecodeReject} (h : decodeWord op = .error e) : e = .illegalOpcode op := by
  unfold decodeWord decodeFam0 decodeFam8 decodeFamE decodeFamF at h
  repeat' split at h
  all_goals cases h
  all_goals rfl

end Sys2Proof

open Sys2Proof Sys2Proof.Machine

/-- Settles O2: the canonical word is the one word of the instruction whose ignored bits are 0, and every word of an
instruction decodes to it. -/
theorem decodeEncodeRoundTrip : Obligations.DecodeEncodeRoundTrip := by
  unfold Obligations.DecodeEncodeRoundTrip
  intro i
  refine ⟨i.wellFormed_eq_true, ?_, decodeBytes_encodeBytes i⟩
  rw [← i.word_zero, decodeWord_word]

/-- Settles O3: a recognised word is a word of its instruction, and the canonical form clears the ignored bits of
that. -/
theorem encodeDecodeCanonical : Obligations.EncodeDecodeCanonical := by
  unfold Obligations.EncodeDecodeCanonical
  intro op i h
  obtain ⟨ig, rfl⟩ := exists_word_of_decodeWord h
  exact (canonicalWord_word ig i).symm

/-- Settles O4: a word lies in a row exactly when decode answers an instruction of that row, and decode answers at most
one. -/
theorem decodeAcceptsExactlyTheTable : Obligations.DecodeAcceptsExactlyTheTable := by
  unfold Obligations.DecodeAcceptsExactlyTheTable
  intro op
  refine ⟨⟨fun ⟨i, hi⟩ => ⟨i.row, row_of_decodeWord hi⟩, fun ⟨r, hr, hop⟩ => ?_⟩, fun e => decodeWord_error,
    fun r hr r' hr' hop hop' => ?_⟩
  · obtain ⟨i, hi, -⟩ := decodeRow_eq_some_iff.mp (decodeRow_of_mem hr hop)
    exact ⟨i, hi⟩
  · exact Option.some.inj ((decodeRow_of_mem hr hop).symm.trans (decodeRow_of_mem hr' hop'))

/-- Settles O6: these are the words of the four instructions that have ignored bits. -/
theorem ignoredBitsDoNotMatter : Obligations.IgnoredBitsDoNotMatter := by
  unfold Obligations.IgnoredBitsDoNotMatter
  intro x y n
  exact ⟨decodeWord_word n (.seReg x y), decodeWord_word n (.sneReg x y), decodeWord_word y (.shr x),
    decodeWord_word y (.shl x)⟩

/-- Settles O1: thirteen evaluations of decode. -/
theorem goldenWordsDecode : Obligations.GoldenWordsDecode := by
  unfold Obligations.GoldenWordsDecode
  decide

end

section
/-! PROOFS. The commit pass of every instruction (spec/60_exceptions.md R192): what an instruction writes when none of
its checks fails, as one state, and what that state keeps (spec/10_state.md R23, R24, R28, R29, R31, R59). -/

namespace Sys2Proof.Machine

/-! ### The commit pass -/

/-- The state an instruction leaves when none of its checks fails (R192). -/
def State.commitOf (s : State) : Instr → State
  | .cls => s.fbClear.advance 2
  | .ret => s.dropTop.setPc (s.stackAt s.sp + 2)
  | .jp nnn => s.setPc (zextAddr nnn)
  | .call nnn => (s.push s.pc).setPc (zextAddr nnn)
  | .seImm x kk => s.skipIf (s.reg x == kk)
  | .sneImm x kk => s.skipIf (s.reg x != kk)
  | .seReg x y => s.skipIf (s.reg x == s.reg y)
  | .ldImm x kk => (s.setReg x kk).advance 2
  | .addImm x kk => (s.setReg x (addBytes (s.reg x) kk)).advance 2
  | .ldReg x y => (s.setReg x (s.reg y)).advance 2
  | .orReg x y => (s.setReg x (s.reg x ||| s.reg y)).advance 2
  | .andReg x y => (s.setReg x (s.reg x &&& s.reg y)).advance 2
  | .xorReg x y => (s.setReg x (s.reg x ^^^ s.reg y)).advance 2
  | .addReg x y => (s.resultThenFlag x (addBytes (s.reg x) (s.reg y)) (carryOut (s.reg x) (s.reg y))).advance 2
  | .subReg x y => (s.resultThenFlag x (subBytes (s.reg x) (s.reg y)) (borrowOut (s.reg x) (s.reg y))).advance 2
  | .shr x => (s.flagThenResult x (shiftRight (s.reg x)) (lowBit (s.reg x))).advance 2
  | .subnReg x y => (s.resultThenFlag x (subBytes (s.reg y) (s.reg x)) (borrowOut (s.reg y) (s.reg x))).advance 2
  | .shl x => (s.flagThenResult x (shiftLeft (s.reg x)) (highBit (s.reg x))).advance 2
  | .sneReg x y => s.skipIf (s.reg x != s.reg y)
  | .ldI nnn => (s.setIdx (zextAddr nnn)).advance 2
  | .jpV0 nnn => s.setPc (zextAddr nnn + zextByte (s.reg 0))
  | .rnd x kk => (s.setReg x (s.rnd &&& kk)).advance 2
  | .drw x y n => (s.drawCells (s.drawTargets x y n)).advance 2
  | .skp x => s.skipOrStay (s.keyDown (s.reg x))
  | .sknp x => s.skipOrStay (!s.keyDown (s.reg x))
  | .ldVxDt x => (s.setReg x s.dt).advance 2
  | .ldVxK x => (lowestKey s.keys).elim s fun k => (s.setReg x (BitVec.ofNat 8 k)).advance 2
  | .ldDtVx x => (s.setDt (s.reg x)).advance 2
  | .addI x => (s.setIdx (s.idx + zextByte (s.reg x))).advance 2
  | .ldF x => (s.setIdx (glyphAddr (s.reg x).toNat)).advance 2
  | .ldB x => (s.storeBytes s.idx.toNat (bcdDigits (s.reg x))).advance 2
  | .storeRegs x => ((s.storeBytes s.idx.toNat (s.regBlock x)).passBlock x).advance 2
  | .loadRegs x => ((s.setRegs 0 (s.readBlock (x.toNat + 1))).passBlock x).advance 2

/-- Every instruction is its check pass and then its commit pass (R192). -/
theorem exec_eq_checked_commitOf (i : Instr) (s : State) : exec i s = checked s (s.checksOf i) (s.commitOf i) := by
  cases i
  case ldVxK x =>
    rw [exec, execLdVxK, State.commitOf]
    cases lowestKey s.keys <;> rfl
  all_goals rfl

/-- Everything an instruction can do: raise its first failing check, or commit. -/
theorem exec_cases {i : Instr} {s t : State} (h : exec i s = .next t) :
    (∃ f, firstFault (s.checksOf i) = some f ∧ t = s.raise f) ∨
      (firstFault (s.checksOf i) = none ∧ t = s.commitOf i) :=
  checked_cases ((exec_eq_checked_commitOf i s).symm.trans h)

/-! ### What the commit pass keeps -/

theorem State.skipOrStay_kept (s : State) (taken : Bool) : KeptExcept s (s.skipOrStay taken) [.pc] := by
  intro p hp
  cases p <;> simp_all [Kept]

/-- Writing `pc` last adds `pc` to a frame. An advance is such a write. -/
theorem KeptExcept.setPc {s t : State} {p : Part} (h : KeptExcept s t [p]) (v : Word) :
    KeptExcept s (t.setPc v) [p, .pc] :=
  h.trans (t.setPc_kept v) (by simp) (by simp)

/-- The commit pass has a frame of parts that the rules let the instruction change. -/
theorem State.commitOf_frame (s : State) (i : Instr) :
    ∃ ps, KeptExcept s (s.commitOf i) ps ∧ ∀ q ∈ ps, i.mayChange q = true := by
  cases i
  case' cls => refine ⟨_, s.fbClear_kept.setPc _, ?_⟩
  case' ret => refine ⟨_, s.dropTop_kept.setPc _, ?_⟩
  case' call => refine ⟨_, (s.push_kept _).setPc _, ?_⟩
  case' jp | jpV0 => refine ⟨_, s.setPc_kept _, ?_⟩
  case' seImm | sneImm | seReg | sneReg => refine ⟨_, s.skipIf_kept _, ?_⟩
  case' skp | sknp => refine ⟨_, s.skipOrStay_kept _, ?_⟩
  case' ldImm | addImm | rnd | ldReg | orReg | andReg | xorReg | ldVxDt =>
    refine ⟨_, (s.setReg_kept _ _).setPc _, ?_⟩
  case' addReg | subReg | subnReg => refine ⟨_, s.resultThenFlag_advance_kept _ _ _ 2, ?_⟩
  case' shr | shl => refine ⟨_, s.flagThenResult_advance_kept _ _ _ 2, ?_⟩
  case' ldI | addI | ldF => refine ⟨_, (s.setIdx_kept _).setPc _, ?_⟩
  case' ldDtVx => refine ⟨_, (s.setDt_kept _).setPc _, ?_⟩
  case' drw => refine ⟨_, s.drawCells_advance_kept _ 2, ?_⟩
  case' ldB => refine ⟨_, (s.storeBytes_kept _ _).setPc _, ?_⟩
  case' storeRegs x => refine ⟨_, (s.storeBytes_kept _ _).passBlock_advance x 2, ?_⟩
  case' loadRegs x => refine ⟨_, (s.setRegs_kept _ _).passBlock_advance x 2, ?_⟩
  case' ldVxK x =>
    refine ⟨[.regs, .pc], ?_, ?_⟩
    · rw [State.commitOf]
      cases lowestKey s.keys with
      | none => exact fun p _ => Kept.refl s p
      | some k => exact s.setReg_advance_kept x _ 2
  all_goals simp [Instr.mayChange]

/-- The commit pass changes only what the rules let the instruction change. -/
theorem State.commitOf_kept (s : State) {i : Instr} {p : Part} (h : i.mayChange p = false) :
    Kept s (s.commitOf i) p := by
  obtain ⟨ps, hframe, hps⟩ := s.commitOf_frame i
  exact hframe p fun hp => Bool.false_ne_true (h.symm.trans (hps p hp))

/-- No commit pass writes the latch (R34). -/
theorem State.commitOf_latch (s : State) (i : Instr) : Kept s (s.commitOf i) .latch := by
  apply s.commitOf_kept
  cases i <;> rfl

/-- Drawing writes no register but the flag (R161), on the grid or off it. -/
theorem State.drawCells_reg_of_ne (s : State) (cs : List (Nat × Nat)) {r : Reg} (h : r ≠ flagReg) :
    (s.drawCells cs).reg r = s.reg r := by
  have htoggle (u : State) (c : Nat × Nat) : (u.toggleCell c).reg r = u.reg r := by
    rw [State.reg_toggleCell, if_neg fun hr => h hr.1]
  rw [State.drawCells, foldl_toggle_field (·.reg r) htoggle, State.reg_setFlag, if_neg h]

/-- The commit pass writes no register but those of the write rows (R23). -/
theorem State.commitOf_reg (s : State) {i : Instr} {r : Reg} (h : i.mayWriteReg r = false) :
    (s.commitOf i).reg r = s.reg r := by
  cases i
  case ldImm | addImm | rnd | ldReg | orReg | andReg | xorReg | ldVxDt =>
    exact (s.setReg_advance_reg _ _ 2 r).trans (if_neg (beq_eq_false_iff_ne.mp h))
  case ldVxK x =>
    rw [State.commitOf]
    cases lowestKey s.keys with
    | none => rfl
    | some k => exact (s.setReg_advance_reg x _ 2 r).trans (if_neg (beq_eq_false_iff_ne.mp h))
  case addReg | subReg | subnReg =>
    obtain ⟨hx, hflag⟩ := Bool.or_eq_false_iff.mp h
    rw [State.commitOf, State.advance_reg, State.reg_resultThenFlag, if_neg (beq_eq_false_iff_ne.mp hflag),
      if_neg (beq_eq_false_iff_ne.mp hx)]
  case shr | shl =>
    obtain ⟨hx, hflag⟩ := Bool.or_eq_false_iff.mp h
    rw [State.commitOf, State.advance_reg, State.reg_flagThenResult, if_neg (beq_eq_false_iff_ne.mp hx),
      if_neg (beq_eq_false_iff_ne.mp hflag)]
  case drw => exact s.drawCells_reg_of_ne _ (beq_eq_false_iff_ne.mp h)
  case loadRegs x =>
    rw [State.commitOf, State.advance_reg, State.passBlock_reg, State.reg_setRegs_readBlock,
      if_neg (decide_eq_false_iff_not.mp h)]
  all_goals exact s.commitOf_kept (p := .regs) rfl r

/-! ### What raises -/

theorem report_of_check {p : Prop} [Decidable p] {report f : FaultReport}
    (h : (if p then some report else none) = some f) : f = report := by
  obtain ⟨-, hf⟩ := Option.ite_none_right_eq_some.mp h
  exact (Option.some.inj hf).symm

theorem State.cause_of_readChecks {s : State} {f : FaultReport} {n : Nat}
    (h : firstFault ((s.effAddrs n).map memReadCheck) = some f) : f.cause = .addressOutOfRange := by
  rw [State.readChecks] at h
  obtain ⟨-, hf⟩ := Option.ite_none_left_eq_some.mp h
  cases hf; rfl

theorem State.cause_of_writeChecks {s : State} {f : FaultReport} {n : Nat} (hn : 0 < n)
    (h : firstFault ((s.effAddrs n).map memWriteCheck) = some f) :
    f.cause = .writeProtect ∨ f.cause = .addressOutOfRange := by
  rw [State.writeChecks s n hn] at h
  split at h
  · cases h; exact .inl rfl
  · obtain ⟨-, hf⟩ := Option.ite_none_left_eq_some.mp h
    cases hf; exact .inr rfl

/-- An instruction raises none but the faults the table names for it (R194). -/
theorem State.cause_mem_mayRaise {s : State} {i : Instr} {f : FaultReport}
    (h : firstFault (s.checksOf i) = some f) : f.cause ∈ i.mayRaise := by
  cases i
  case ret | call | skp | sknp | ldF =>
    rw [report_of_check ((firstFault_single _).symm.trans h)]
    exact List.mem_singleton_self _
  case drw =>
    rw [State.checksOf, firstFault_append, firstFault_single] at h
    rcases Option.or_eq_some_iff.mp h with haddr | ⟨-, hgrid⟩
    · simp [Instr.mayRaise, State.cause_of_readChecks haddr]
    · simp [Instr.mayRaise, report_of_check hgrid]
  case ldB | storeRegs =>
    simpa [Instr.mayRaise] using State.cause_of_writeChecks (Nat.succ_pos _) h
  case loadRegs => simpa [Instr.mayRaise] using State.cause_of_readChecks h
  all_goals cases h

/-- An instruction that the table names no fault for has no check. -/
theorem State.checksOf_of_mayRaise_nil (s : State) {i : Instr} (h : i.mayRaise = []) :
    firstFault (s.checksOf i) = none :=
  Option.eq_none_iff_forall_ne_some.mpr fun _ hf => List.not_mem_nil (h ▸ State.cause_mem_mayRaise hf)

/-- No instruction raises the reserved fault (R208). -/
theorem registerIndexOutOfRange_not_mem_mayRaise (i : Instr) : Cause.registerIndexOutOfRange ∉ i.mayRaise := by
  cases i <;> simp [Instr.mayRaise]

end Sys2Proof.Machine

open Sys2Proof Sys2Proof.Machine

/-- Settles O47: a fault writes no register, and the commit pass none outside the write rows. -/
theorem registersWrittenByTheTable : Obligations.RegistersWrittenByTheTable := by
  unfold Obligations.RegistersWrittenByTheTable
  intro i s t r h hr
  rcases exec_cases h with ⟨f, -, rfl⟩ | ⟨-, rfl⟩
  · exact s.raise_reg f r
  · exact s.commitOf_reg hr

/-- Settles O48: a fault changes the latch alone, and only an instruction that can raise does; the commit pass stays
within what the rules let change. -/
theorem frameByInstruction : Obligations.FrameByInstruction := by
  unfold Obligations.FrameByInstruction
  intro i s t p h hp hlatch
  rcases exec_cases h with ⟨f, hf, rfl⟩ | ⟨-, rfl⟩
  · obtain ⟨-, -, -, hraise⟩ := s.raise_faulted f
    rcases hlatch with hne | hnil
    · exact hraise p (by simpa using hne)
    · cases (s.checksOf_of_mayRaise_nil hnil).symm.trans hf
  · exact s.commitOf_kept hp

/-- Settles O15: a running core that halts has raised a failing check of its instruction. -/
theorem faultCausesByInstruction : Obligations.FaultCausesByInstruction := by
  unfold Obligations.FaultCausesByInstruction
  refine ⟨rfl, fun i s t h hrun hhalt => ?_⟩
  obtain ⟨f, hf, rfl⟩ := exec_raises h hrun hhalt
  have hmem := State.cause_mem_mayRaise hf
  exact ⟨f.cause, hmem, s.raise_cause f, fun hres => registerIndexOutOfRange_not_mem_mayRaise i (hres ▸ hmem)⟩

end

section
/-! PROOFS. The invariants of the machine (spec/10_state.md R26, R30, R34, R40, spec/20_memory.md R51, R53): reset meets
them, and the three ways a cycle changes the state, a fault, a commit and the end of the cycle, keep them. -/

namespace Sys2Proof.Machine

/-- Everything a cycle can do to the state (R100, R192): nothing, raise a fault other than the reserved one, or run the
commit pass of an instruction at a fetchable `pc`; the last two use up the cycle's inputs. -/
theorem step_next_cases {s t : State} (h : step s = .next t) :
    t = s ∨ (∃ f : FaultReport, f.cause ≠ .registerIndexOutOfRange ∧ t = (s.raise f).nextInputs) ∨
      ∃ i, fetchable s.pc = true ∧ firstFault (s.checksOf i) = none ∧ t = (s.commitOf i).nextInputs := by
  rcases step_cases s with ⟨-, hstep⟩ | ⟨-, -, hstep⟩ | ⟨-, -, -, hstep⟩ | ⟨-, hpc, i, u, -, hexec, hstep⟩
  all_goals obtain rfl := Host.Outcome.next.inj (h.symm.trans hstep)
  · exact .inl rfl
  · exact .inr (.inl ⟨_, by simp, rfl⟩)
  · exact .inr (.inl ⟨_, by simp, rfl⟩)
  · rcases exec_cases hexec with ⟨f, hf, rfl⟩ | ⟨hf, rfl⟩
    · have hmem := State.cause_mem_mayRaise hf
      exact .inr (.inl ⟨f, fun hres => registerIndexOutOfRange_not_mem_mayRaise i (hres ▸ hmem), rfl⟩)
    · exact .inr (.inr ⟨i, hpc, hf, rfl⟩)

/-! ### What a commit writes to memory -/

/-- A block write that passes its checks lies in the program region (R53). -/
theorem State.block_of_writeChecks {s : State} {n : Nat} (hn : 0 < n)
    (h : firstFault ((s.effAddrs n).map memWriteCheck) = none) :
    0x200 ≤ s.idx.toNat ∧ s.idx.toNat + n ≤ 0x1000 := by
  rw [State.writeChecks s n hn] at h
  split at h
  · cases h
  · split at h
    · omega
    · cases h

/-- A commit leaves memory as it is, or stores one block, which lies in the program region (R53, R59). -/
theorem State.commitOf_mem {s : State} {i : Instr} (h : firstFault (s.checksOf i) = none) :
    (s.commitOf i).mem = s.mem ∨
      ∃ bs, (s.commitOf i).mem = (s.storeBytes s.idx.toNat bs).mem ∧
        0x200 ≤ s.idx.toNat ∧ s.idx.toNat + bs.length ≤ 0x1000 := by
  cases i
  case ldB x => exact .inr ⟨bcdDigits (s.reg x), rfl, State.block_of_writeChecks (Nat.succ_pos 2) h⟩
  case storeRegs x =>
    refine .inr ⟨s.regBlock x, rfl, ?_⟩
    rw [State.length_regBlock]
    exact State.block_of_writeChecks (Nat.succ_pos _) h
  case ldVxK x =>
    rw [State.commitOf]
    cases lowestKey s.keys <;> exact .inl rfl
  all_goals
    left
    simp [State.commitOf]

theorem State.readByte_storeBytes_of_lt (s : State) {a b : Nat} (bs : List Byte) (h : b < a) :
    (s.storeBytes a bs).readByte b = s.readByte b := by
  rw [State.readByte_storeBytes, if_neg (by omega)]

/-- No commit writes a byte below 0x200 (R53). -/
theorem State.commitOf_readByte_reserved {s : State} {i : Instr} (h : firstFault (s.checksOf i) = none) {a : Nat}
    (ha : a < 0x200) : (s.commitOf i).readByte a = s.readByte a := by
  rcases State.commitOf_mem h with hmem | ⟨bs, hmem, hlow, -⟩
  · exact congrArg (Memory.read · a) hmem
  · exact (congrArg (Memory.read · a) hmem).trans (s.readByte_storeBytes_of_lt bs (by omega))

/-! ### The machine invariant -/

/-- The invariant reads memory and the latch only. -/
theorem MachineInv.of_mem_latch {s t : State} (hs : MachineInv s) (hmem : t.mem = s.mem) (hlatch : Kept s t .latch) :
    MachineInv t := by
  obtain ⟨hhalted, hcause, hfinfo⟩ := hlatch
  obtain ⟨hwf, hregion, hrunning, hstopped⟩ := hs
  constructor
  · rwa [hmem]
  · rwa [hmem]
  · rwa [hhalted, hcause, hfinfo]
  · rwa [hhalted, hcause]

theorem MachineInv.nextInputs {s : State} (hs : MachineInv s) : MachineInv s.nextInputs :=
  hs.of_mem_latch s.nextInputs_mem (s.nextInputs_kept .latch (by simp))

theorem MachineInv.raise {s : State} (hs : MachineInv s) {f : FaultReport} (hf : f.cause ≠ .registerIndexOutOfRange) :
    MachineInv (s.raise f) where
  memWf := hs.memWf
  memRegion := hs.memRegion
  running h := by cases h
  stopped _ := f.cause.code_range hf

/-- A block store in the program region keeps memory canonical and within that region. -/
theorem MachineInv.storeBytes {s : State} (hs : MachineInv s) {a : Nat} {bs : List Byte} (hlow : 0x200 ≤ a)
    (hhigh : a + bs.length ≤ 0x1000) : MachineInv (s.storeBytes a bs) where
  memWf := s.storeBytes_wf a bs hs.memWf
  memRegion c hc := by
    rcases s.mem_storeBytes a bs c hc with hold | ⟨h1, h2⟩
    · exact hs.memRegion c hold
    · omega
  running := by simpa using hs.running
  stopped := by simpa using hs.stopped

theorem MachineInv.commitOf {s : State} (hs : MachineInv s) {i : Instr} (h : firstFault (s.checksOf i) = none) :
    MachineInv (s.commitOf i) := by
  rcases State.commitOf_mem h with hmem | ⟨bs, hmem, hlow, hhigh⟩
  · exact hs.of_mem_latch hmem (s.commitOf_latch i)
  · exact (hs.storeBytes hlow hhigh).of_mem_latch hmem
      (by simpa [Kept] using s.commitOf_latch i)

/-! ### The control invariant -/

/-- The invariant reads `pc` and the call stack only. -/
theorem ControlInv.of_pc_stack {s t : State} (hs : ControlInv s) (hpc : t.pc.toNat ≤ 0x10FE)
    (hstack : Kept s t .stack) : ControlInv t := by
  obtain ⟨hsp, hentries⟩ := hstack
  obtain ⟨-, hlive, hzero⟩ := hs
  refine ⟨hpc, fun k hk hksp => ?_, (hentries 0).trans hzero⟩
  rw [hentries]
  exact hlive k hk (hsp ▸ hksp)

theorem ControlInv.nextInputs {s : State} (hs : ControlInv s) : ControlInv s.nextInputs :=
  hs.of_pc_stack (s.nextInputs_pc ▸ hs.pcBound) (s.nextInputs_kept .stack (by simp))

theorem ControlInv.raise {s : State} (hs : ControlInv s) (f : FaultReport) : ControlInv (s.raise f) :=
  hs.of_pc_stack hs.pcBound ⟨rfl, fun _ => rfl⟩

/-- From a fetchable address an advance does not wrap, and stays below the bound (R26). -/
theorem fetchable_add_toNat_le {a k : Word} (ha : fetchable a = true) (hk : k.toNat ≤ 4) :
    (a + k).toNat ≤ 0x10FE := by
  obtain ⟨-, -, hlt⟩ := (fetchable_iff a).mp ha
  rw [BitVec.toNat_add]
  omega

/-- Outside the set of R108 a commit advances `pc` by 2 or leaves it. -/
theorem State.commitOf_pc (s : State) {i : Instr} (hset : i.transfersOrSkips = false) :
    (s.commitOf i).pc = s.pc ∨ (s.commitOf i).pc = s.pc + 2 := by
  cases i
  case jp | call | ret | jpV0 | seImm | sneImm | seReg | sneReg | skp | sknp => cases hset
  case ldVxK x =>
    rw [State.commitOf]
    cases lowestKey s.keys with
    | none => exact .inl rfl
    | some k => exact .inr rfl
  all_goals
    right
    simp [State.commitOf]

theorem ControlInv.commitOf_pc_le {s : State} (hs : ControlInv s) (hpc : fetchable s.pc = true) {i : Instr}
    (hset : i.transfersOrSkips = false) : (s.commitOf i).pc.toNat ≤ 0x10FE := by
  rcases s.commitOf_pc hset with hstay | hadvance
  · rw [hstay]; exact hs.pcBound
  · rw [hadvance]; exact fetchable_add_toNat_le hpc (by decide)

/-- CALL makes its own address the new top entry, at a depth of 1 or more (R113). -/
theorem ControlInv.push_setPc {s : State} (hs : ControlInv s) (hpc : fetchable s.pc = true) (hroom : s.sp ≠ 15)
    {v : Word} (hv : v.toNat ≤ 0x10FE) : ControlInv ((s.push s.pc).setPc v) where
  pcBound := hv
  liveEntries k hk hksp := by
    have hsp := State.push_sp_toNat s.pc hroom
    rw [State.setPc_sp, hsp] at hksp
    rw [State.setPc_stackAt, State.stackAt_push]
    split
    case isTrue => exact hpc
    case isFalse hne =>
      refine hs.liveEntries k hk (Nat.lt_succ_iff.mp (lt_of_le_of_ne hksp fun he => hne ?_))
      exact BitVec.eq_of_toNat_eq (he.trans hsp.symm)
  entryZero := by
    have hsp := State.push_sp_toNat s.pc hroom
    rw [State.setPc_stackAt, State.stackAt_push, if_neg fun h0 => ?_]
    · exact hs.entryZero
    · rw [State.push_sp, ← h0] at hsp
      cases hsp

/-- RET continues after the CALL whose address the top entry is, with one live entry less (R111). -/
theorem ControlInv.dropTop_setPc {s : State} (hs : ControlInv s) (hne : s.sp ≠ 0) :
    ControlInv (s.dropTop.setPc (s.stackAt s.sp + 2)) := by
  have hsp := State.dropTop_sp_toNat hne
  have htop : fetchable (s.stackAt s.sp) = true := hs.liveEntries s.sp (by omega) (Nat.le_refl _)
  exact ⟨fetchable_add_toNat_le htop (by decide),
    fun k hk hksp => hs.liveEntries k hk (hksp.trans (by rw [State.setPc_sp]; omega)), hs.entryZero⟩

theorem ControlInv.commitOf {s : State} (hs : ControlInv s) (hpc : fetchable s.pc = true) {i : Instr}
    (h : firstFault (s.checksOf i) = none) : ControlInv (s.commitOf i) := by
  cases i
  case call nnn =>
    refine hs.push_setPc hpc (fun hfull => ?_) (by rw [zextAddr_toNat]; omega)
    rw [State.checksOf, firstFault_single, State.pushCheck_of_full _ hfull] at h
    cases h
  case ret =>
    refine hs.dropTop_setPc fun hempty => ?_
    rw [State.checksOf, firstFault_single, State.popCheck_of_empty hempty] at h
    cases h
  case jp nnn =>
    refine hs.of_pc_stack ?_ (s.commitOf_kept rfl)
    rw [State.commitOf, State.setPc_pc, zextAddr_toNat]
    omega
  case jpV0 nnn =>
    refine hs.of_pc_stack ?_ (s.commitOf_kept rfl)
    rw [State.commitOf, State.setPc_pc, zextAddr_add_zextByte_toNat]
    omega
  case seImm | sneImm | seReg | sneReg =>
    refine hs.of_pc_stack (fetchable_add_toNat_le hpc ?_) (s.commitOf_kept rfl)
    split <;> decide
  case skp | sknp =>
    refine hs.of_pc_stack ?_ (s.commitOf_kept rfl)
    rw [State.commitOf, State.skipOrStay]
    split
    · exact fetchable_add_toNat_le hpc (by decide)
    · exact hs.pcBound
  all_goals exact hs.of_pc_stack (hs.commitOf_pc_le hpc rfl) (s.commitOf_kept rfl)

end Sys2Proof.Machine

open Sys2Proof Sys2Proof.Machine

/-- Settles O50: a fault sets the latch to a code 1 to 9, and a commit leaves memory or stores a block of the program
region. -/
theorem stepKeepsMachineInv : Obligations.StepKeepsMachineInv := by
  unfold Obligations.StepKeepsMachineInv
  intro s t hs h
  rcases step_next_cases h with rfl | ⟨f, hf, rfl⟩ | ⟨i, -, hf, rfl⟩
  · exact hs
  · exact (hs.raise hf).nextInputs
  · exact (hs.commitOf hf).nextInputs

/-- Settles O51: an instruction runs from a fetchable `pc`, so CALL pushes a fetchable address, RET returns past one,
and every other `pc` is a short advance or a jump target, at most 0xFFF + 0xFF. -/
theorem stepKeepsControlInv : Obligations.StepKeepsControlInv := by
  unfold Obligations.StepKeepsControlInv
  intro s t hs h
  rcases step_next_cases h with rfl | ⟨f, -, rfl⟩ | ⟨i, hpc, hf, rfl⟩
  · exact hs
  · exact (hs.raise f).nextInputs
  · exact (hs.commitOf hpc hf).nextInputs

/-- Settles O52: after reset memory lists nothing, the latch is clear and no call is open. -/
theorem resetMeetsTheInvariants : Obligations.ResetMeetsTheInvariants := by
  unfold Obligations.ResetMeetsTheInvariants
  refine ⟨⟨State.reset_mem_wf, fun c hc => ?_, fun _ => ⟨rfl, rfl⟩, fun h => ?_⟩, ⟨?_, fun k hk hksp => ?_, ?_⟩⟩
  · cases hc
  · cases h
  · decide
  · exact absurd (hk.trans hksp) (by decide)
  · exact State.reset.resetCore_stackAt 0

/-- Settles O53: a cycle writes memory by a block store of an instruction, in the program region, and a load writes
from 0x200 upward. -/
theorem reservedRegionNeverWritten : Obligations.ReservedRegionNeverWritten := by
  unfold Obligations.ReservedRegionNeverWritten
  intro s a ha
  refine ⟨fun t h => ?_, fun bytes => ?_⟩
  · rcases step_next_cases h with rfl | ⟨f, -, rfl⟩ | ⟨i, -, hf, rfl⟩
    · rfl
    · rw [State.nextInputs_readByte, State.raise_readByte]
    · rw [State.nextInputs_readByte, State.commitOf_readByte_reserved hf ha]
  · rcases Nat.lt_or_ge 3584 bytes.length with hlarge | hfits
    · rw [s.loadProgram_of_too_large hlarge]
    · rw [s.loadProgram_of_fits hfits]
      exact s.readByte_storeBytes_of_lt bytes ha

end

section
/-! PROOFS. The run cycle (spec/40_cycle.md R100 to R103): the cycle of an unrecognised word, the cycle of a decoded
instruction, the inputs it leaves, and RunCycle with its inputs as arguments. -/

namespace Sys2Proof.Machine

/-! ### The cycle, by what the fetch finds -/

/-- The third outcome of R100: the word at a fetchable `pc` is no instruction. -/
theorem step_of_illegal {s : State} (hrun : s.halted = false) (hpc : fetchable s.pc = true) {e : DecodeReject}
    (hdecode : decodeWord (s.readWord s.pc.toNat) = .error e) :
    step s = .next (s.raise ⟨.illegalOpcode, s.readWord s.pc.toNat⟩).nextInputs := by
  rcases step_cases s with ⟨h, -⟩ | ⟨-, h, -⟩ | ⟨-, -, -, hstep⟩ | ⟨-, -, i, -, h, -⟩
  · cases hrun.symm.trans h
  · cases hpc.symm.trans h
  · exact hstep
  · cases hdecode.symm.trans h

/-- The last outcome of R100: the word at a fetchable `pc` is the instruction `i`. -/
theorem step_of_decode {s : State} (hrun : s.halted = false) (hpc : fetchable s.pc = true) {i : Instr}
    (hdecode : decodeWord (s.readWord s.pc.toNat) = .ok i) {t : State} (hexec : exec i s = .next t) :
    step s = .next t.nextInputs := by
  rcases step_cases s with ⟨h, -⟩ | ⟨-, h, -⟩ | ⟨-, -, ⟨e, h⟩, -⟩ | ⟨-, -, i', t', h, hexec', hstep⟩
  · cases hrun.symm.trans h
  · cases hpc.symm.trans h
  · cases hdecode.symm.trans h
  · cases hdecode.symm.trans h
    cases hexec.symm.trans hexec'
    exact hstep

/-! ### RunCycle with its inputs -/

/-- RunCycle presents its inputs and runs one cycle. -/
theorem State.runCycle_of_step {s t : State} {c : CycleInput} (h : step (s.withInputs c.keys c.rnd) = .next t) :
    s.runCycle c = some (cycleResult s t, t) := by
  have h' : step { s with keys := c.keys, rnd := c.rnd } = .next t := h
  rw [State.runCycle, h']

theorem cycleResult_of_running {before : State} (hrun : before.halted = false) (after : State) :
    cycleResult before after = if after.halted then .faulted after.cause else .completed := by
  rw [cycleResult, hrun]; rfl

/-- A fault raised before the instruction executes: reported with its code, and nothing but the latch and the inputs
changes. -/
theorem State.runCycle_of_raise {s : State} {c : CycleInput} {f : FaultReport} (hrun : s.halted = false)
    (h : step (s.withInputs c.keys c.rnd) = .next ((s.withInputs c.keys c.rnd).raise f).nextInputs) :
    ∃ t, s.runCycle c = some (.faulted f.cause.code, t) ∧ t.halted = true ∧ t.cause = f.cause.code ∧
      t.finfo = f.info ∧ KeptExcept s t [.latch, .inputs] := by
  have hhalt : ((s.withInputs c.keys c.rnd).raise f).nextInputs.halted = true := by
    rw [State.nextInputs_halted, State.raise_halted]
  have hcause : ((s.withInputs c.keys c.rnd).raise f).nextInputs.cause = f.cause.code := by
    rw [State.nextInputs_cause, State.raise_cause]
  refine ⟨_, ?_, hhalt, hcause, ?_, ?_⟩
  · rw [State.runCycle_of_step h, cycleResult_of_raised hrun hhalt, hcause]
  · rw [State.nextInputs_finfo, State.raise_finfo]
  · exact (s.withInputs_kept c.keys c.rnd).trans (State.raise_nextInputs_kept _ f) (by simp) (by simp)

/-! ### A jump to its own address -/

theorem Op.nnn_toNat (op : Word) : (Op.nnn op).toNat = op.toNat % 4096 := by
  rw [Op.nnn, BitVec.extractLsb'_toNat, Nat.shiftRight_zero]

theorem Op.fam_toNat (op : Word) : (Op.fam op).toNat = op.toNat / 4096 := by
  rw [Op.fam, BitVec.extractLsb'_toNat, Nat.shiftRight_eq_div_pow]
  omega

/-- Below 0x1000 an address is its own low 12 bits, so or-ing 0x1000 makes the JP that goes there (R243). -/
theorem jpWord_of_lt {a : Word} (h : a.toNat < 0x1000) : 0x1000#16 ||| a = 0x1#4 ++ Op.nnn a := by
  have ha : a = 0x0#4 ++ Op.nnn a := Op.eq_addr_of_fam ((Op.fam_toNat a).trans (Nat.div_eq_of_lt h))
  have hjp : (0x1000#16 : Word) = 0x1#4 ++ 0x000#12 := rfl
  conv_lhs => rw [ha, hjp, BitVec.or_append, BitVec.or_zero, BitVec.zero_or]

theorem zextAddr_nnn_of_lt {a : Word} (h : a.toNat < 0x1000) : zextAddr (Op.nnn a) = a := by
  apply BitVec.eq_of_toNat_eq
  rw [zextAddr_toNat, Op.nnn_toNat, Nat.mod_eq_of_lt h]

/-- The cycle of a JP to its own address leaves the state as it was, but for the inputs (R243). -/
theorem step_of_jp_self {s : State} (hrun : s.halted = false) (hpc : fetchable s.pc = true)
    (hword : s.readWord s.pc.toNat = 0x1000#16 ||| s.pc) : step s = .next s.nextInputs := by
  obtain ⟨-, -, hlt⟩ := (fetchable_iff s.pc).mp hpc
  obtain ⟨hdecode, -⟩ := decodeWord_addr (Op.nnn s.pc)
  rw [← jpWord_of_lt hlt, ← hword] at hdecode
  refine step_of_decode hrun hpc hdecode ?_
  rw [exec_jp, zextAddr_nnn_of_lt hlt]
  rfl

/-! ### A store into the next instruction -/

theorem exec_storeRegs_of_fits {s : State} {x : Reg} (hlow : 0x200 ≤ s.idx.toNat)
    (hhigh : s.idx.toNat + x.toNat ≤ 0xFFF) :
    exec (.storeRegs x) s = .next (((s.storeBytes s.idx.toNat (s.regBlock x)).passBlock x).advance 2) := by
  rw [exec_storeRegs, checked_eq, State.writeChecks s _ (Nat.succ_pos _), if_neg (by omega), if_pos (by omega),
    Option.elim_none]

/-- The first two registers of a block are the word at the block's address. -/
theorem State.readWord_storeBytes_regBlock (s : State) (a : Nat) {x : Reg} (hx : 1 ≤ x.toNat) :
    (s.storeBytes a (s.regBlock x)).readWord a = s.reg 0 ++ s.reg 1 := by
  have h0 := s.readByte_storeBytes_regBlock a (x := x) (k := 0) (Nat.zero_le _)
  have h1 := s.readByte_storeBytes_regBlock a (x := x) (k := 1) hx
  exact congrArg₂ (· ++ ·) h0 h1

end Sys2Proof.Machine

open Sys2Proof Sys2Proof.Machine

/-- Settles O8: each outcome is that of `step` from the state with the inputs presented. -/
theorem runCycleFollowsItsSteps : Obligations.RunCycleFollowsItsSteps := by
  unfold Obligations.RunCycleFollowsItsSteps
  intro s c
  refine ⟨fun hhalt => ?_, fun hrun hpc => ?_, fun hrun hpc hdecode => ?_, fun i hrun hpc hdecode => ?_⟩
  · rw [State.runCycle_of_step (step_of_halted (s := s.withInputs c.keys c.rnd) hhalt), cycleResult_of_halted hhalt]
  · exact State.runCycle_of_raise hrun (step_of_not_fetchable (s := s.withInputs c.keys c.rnd) hrun hpc)
  · exact State.runCycle_of_raise hrun (step_of_illegal (s := s.withInputs c.keys c.rnd) hrun hpc hdecode)
  · obtain ⟨t, hexec⟩ := exec_next i (s.withInputs c.keys c.rnd)
    refine ⟨t, hexec, ?_⟩
    rw [State.runCycle_of_step (step_of_decode (s := s.withInputs c.keys c.rnd) hrun hpc hdecode hexec),
      cycleResult_of_running hrun, State.nextInputs_halted, State.nextInputs_cause]

/-- Settles O11: a word in no row is one that decode rejects. -/
theorem illegalOpcodeHalts : Obligations.IllegalOpcodeHalts := by
  unfold Obligations.IllegalOpcodeHalts
  intro s hrun hpc hrows
  cases hdecode : decodeWord (s.readWord s.pc.toNat) with
  | ok i =>
    obtain ⟨hmem, hmatch⟩ := row_of_decodeWord hdecode
    exact absurd hmatch (hrows i.row hmem)
  | error e =>
    refine ⟨_, step_of_illegal hrun hpc hdecode, ?_, ?_, ?_, s.raise_nextInputs_kept _⟩
    · rw [State.nextInputs_halted, State.raise_halted]
    · rw [State.nextInputs_cause, State.raise_cause, Cause.code]
    · rw [State.nextInputs_finfo, State.raise_finfo]

/-- Settles O7: the cycle of a decoded instruction ends by presenting the next inputs, the head of `pending` if there is
one. -/
theorem stepRunsDecodedInstruction : Obligations.StepRunsDecodedInstruction := by
  unfold Obligations.StepRunsDecodedInstruction
  intro s i hrun heven hlow hhigh hdecode
  have hpc : fetchable s.pc = true := (fetchable_iff s.pc).mpr ⟨heven, hlow, hhigh⟩
  have hstep {t : State} (hexec : exec i s = .next t) : step s = .next t.nextInputs :=
    step_of_decode hrun hpc hdecode hexec
  refine ⟨?_, fun t hexec => ⟨hstep hexec, t.nextInputs_kept, fun c cs hpending => ?_, fun hpending => ?_⟩⟩
  · obtain ⟨t, hexec⟩ := exec_next i s
    rw [hstep hexec, hexec, endCycle_next]
  · simp [State.nextInputs, hpending]
  · simp [State.nextInputs, hpending]

/-- Settles O59: at 0x200 memory is zero after reset, whatever `GLYPH_BASE` is, and the word 0x0000 is unrecognised. -/
theorem bootWithoutProgramHalts : Obligations.BootWithoutProgramHalts := by
  unfold Obligations.BootWithoutProgramHalts
  have hword : State.reset.readWord State.reset.pc.toNat = 0x0000 := by
    have hzero (a : Nat) (ha : 0x200 ≤ a) : State.reset.readByte a = 0 :=
      (Memory.read_nil a).trans (Memory.initial_program a ha)
    rw [State.readWord, hzero _ (by decide), hzero _ (by decide)]
    rfl
  have hdecode : decodeWord (State.reset.readWord State.reset.pc.toNat) = .error (.illegalOpcode 0x0000) := by
    rw [hword]; rfl
  refine ⟨_, step_of_illegal rfl (by decide) hdecode, ?_, ?_, ?_, ?_⟩
  · rw [State.nextInputs_halted, State.raise_halted]
  · rw [State.nextInputs_cause, State.raise_cause, Cause.code]
  · rw [State.nextInputs_finfo, State.raise_finfo, hword]
  · rw [State.nextInputs_pc, State.raise_pc, State.reset]

/-- Settles O58: with the inputs presented the word at `pc` is the same, so the cycle is the same. -/
theorem jumpToSelfIsFixed : Obligations.JumpToSelfIsFixed := by
  unfold Obligations.JumpToSelfIsFixed
  intro s hrun hpc hword
  refine ⟨step_of_jp_self hrun hpc hword, fun c => ⟨(s.withInputs c.keys c.rnd).nextInputs, ?_, ?_⟩⟩
  · rw [State.runCycle_of_step (step_of_jp_self (s := s.withInputs c.keys c.rnd) hrun hpc hword),
      cycleResult_of_running hrun, State.nextInputs_halted, State.withInputs_halted, hrun]
    rfl
  · exact (s.withInputs_kept c.keys c.rnd).trans (State.nextInputs_kept _) (by simp) (by simp)

/-- Settles O13: the store writes the word at `I`, which is where `pc` advances to. -/
theorem storedCodeIsFetchedNext : Obligations.StoredCodeIsFetchedNext := by
  unfold Obligations.StoredCodeIsFetchedNext
  intro s x hrun hpc hdecode hx hidx hhigh
  obtain ⟨heven, hlow, -⟩ := (fetchable_iff s.pc).mp hpc
  have hnext : (s.pc + 2).toNat = s.idx.toNat := by
    rw [BitVec.toNat_add, hidx]
    show (s.pc.toNat + 2) % 65536 = s.pc.toNat + 2
    omega
  obtain ⟨t, ht⟩ : ∃ t, t = ((s.storeBytes s.idx.toNat (s.regBlock x)).passBlock x).advance 2 := ⟨_, rfl⟩
  have hexec : exec (.storeRegs x) s = .next t := ht ▸ exec_storeRegs_of_fits (by omega) hhigh
  have hhalted : t.nextInputs.halted = false := by simp [ht, hrun]
  have hpc' : t.nextInputs.pc = s.pc + 2 := by simp [ht]
  have hword : t.nextInputs.readWord s.idx.toNat = s.reg 0 ++ s.reg 1 := by
    rw [← s.readWord_storeBytes_regBlock s.idx.toNat hx]
    simp [ht, State.readWord]
  have hfetch : fetchable (s.pc + 2) = true := by
    rw [fetchable_iff, hnext]
    omega
  refine ⟨_, step_of_decode hrun hpc hdecode hexec, hhalted, hpc', ?_⟩
  rw [State.fetchOpcode_of_fetchable (by rwa [hpc']), hpc', hnext, hword]

end

section
/-! PROOFS. The inputs of a cycle (spec/40_cycle.md R102): every check and every commit is the same with other inputs,
but for the four instructions that read them. -/

namespace Sys2Proof.Machine

theorem State.toggleCell_withInputs (s : State) (k : BitVec 16) (r : Byte) (c : Nat × Nat) :
    (s.withInputs k r).toggleCell c = (s.toggleCell c).withInputs k r := by
  unfold State.toggleCell
  rw [State.withInputs_fbGet]
  split <;> rfl

theorem State.drawCells_withInputs (s : State) (k : BitVec 16) (r : Byte) (cs : List (Nat × Nat)) :
    (s.withInputs k r).drawCells cs = (s.drawCells cs).withInputs k r :=
  List.foldl_hom (init := s.setFlag false) (fun u : State => u.withInputs k r) fun u c => u.toggleCell_withInputs k r c

theorem State.storeBytes_withInputs (s : State) (k : BitVec 16) (r : Byte) (a : Nat) (bs : List Byte) :
    (s.withInputs k r).storeBytes a bs = (s.storeBytes a bs).withInputs k r := by
  induction bs generalizing s a with
  | nil => rfl
  | cons b bs ih => exact ih (s.storeByte a b) (a + 1)

theorem State.setRegs_withInputs (s : State) (k : BitVec 16) (r : Byte) (m : Nat) (bs : List Byte) :
    (s.withInputs k r).setRegs m bs = (s.setRegs m bs).withInputs k r := by
  induction bs generalizing s m with
  | nil => rfl
  | cons b bs ih => exact ih (s.setReg (BitVec.ofNat 4 m) b) (m + 1)

theorem State.skipOrStay_withInputs (s : State) (k : BitVec 16) (r : Byte) (taken : Bool) :
    (s.withInputs k r).skipOrStay taken = (s.skipOrStay taken).withInputs k r := by
  cases taken <;> rfl

/-- No check reads an input. -/
theorem State.checksOf_withInputs (s : State) (k : BitVec 16) (r : Byte) (i : Instr) :
    (s.withInputs k r).checksOf i = s.checksOf i := by
  cases i <;> rfl

/-- The commit pass is the same with other keys where the instruction does not read the keys, and with another random
byte where it does not read that. -/
theorem State.commitOf_withInputs (s : State) {k : BitVec 16} {r : Byte} {i : Instr}
    (hkeys : i.readsKeys = true → k = s.keys) (hrnd : i.readsRnd = true → r = s.rnd) :
    (s.withInputs k r).commitOf i = (s.commitOf i).withInputs k r := by
  cases i
  case skp | sknp =>
    obtain rfl := hkeys rfl
    exact s.skipOrStay_withInputs _ r _
  case ldVxK x =>
    obtain rfl := hkeys rfl
    rw [State.commitOf, State.commitOf, State.withInputs_keys]
    cases lowestKey s.keys <;> rfl
  case rnd =>
    obtain rfl := hrnd rfl
    rfl
  case drw x y n => exact congrArg (State.advance · 2) (s.drawCells_withInputs k r (s.drawTargets x y n))
  case ldB x => exact congrArg (State.advance · 2) (s.storeBytes_withInputs k r s.idx.toNat (bcdDigits (s.reg x)))
  case storeRegs x =>
    exact congrArg (fun u => (State.passBlock u x).advance 2) (s.storeBytes_withInputs k r s.idx.toNat (s.regBlock x))
  case loadRegs x =>
    exact congrArg (fun u => (State.passBlock u x).advance 2) (s.setRegs_withInputs k r 0 (s.readBlock (x.toNat + 1)))
  all_goals rfl

theorem exec_withInputs {i : Instr} {s t : State} (h : exec i s = .next t) {k : BitVec 16} {r : Byte}
    (hkeys : i.readsKeys = true → k = s.keys) (hrnd : i.readsRnd = true → r = s.rnd) :
    exec i (s.withInputs k r) = .next (t.withInputs k r) := by
  rw [exec_eq_checked_commitOf, checked_eq, State.checksOf_withInputs, s.commitOf_withInputs hkeys hrnd]
  rcases exec_cases h with ⟨f, hf, rfl⟩ | ⟨hf, rfl⟩
  · rw [hf]; rfl
  · rw [hf]; rfl

end Sys2Proof.Machine

open Sys2Proof Sys2Proof.Machine

/-- Settles O49: one of the two inputs stays as it was, and the other is not read. -/
theorem inputsIgnoredByTheRest : Obligations.InputsIgnoredByTheRest := by
  unfold Obligations.InputsIgnoredByTheRest
  intro i s t keys rnd h
  refine ⟨fun hrnd => ?_, fun hkeys => ?_⟩
  · exact exec_withInputs h (fun _ => rfl) fun hread => absurd (hrnd.symm.trans hread) Bool.false_ne_true
  · exact exec_withInputs h (fun hread => absurd (hkeys.symm.trans hread) Bool.false_ne_true) fun _ => rfl

end

section
/-! PROOFS. What two operations do together: a load and the reads after it (spec/70_reset_and_hazards.md R233, R234), a
CALL and its RET (spec/41_flow.md R111, R113), the same sprite drawn twice (spec/45_draw.md R160), and a cell and the
pixel that shows it (spec/10_state.md R32). -/

namespace Sys2Proof.Machine

/-! ### Drawing the same sprite again -/

/-- The cells a sprite hits depend on `I`, the two origin registers and memory. -/
theorem State.drawHits_congr {s t : State} {x y : Reg} (hidx : t.idx = s.idx) (hx : t.reg x = s.reg x)
    (hy : t.reg y = s.reg y) (hmem : Kept s t .mem) (n : BitVec 4) (px py : Nat) :
    t.drawHits x y n px py = s.drawHits x y n px py := by
  have hread : ∀ a, t.readByte a = s.readByte a := hmem
  simp only [State.drawHits, State.spriteHits, hidx, hx, hy, hread]

/-- A DRW that completes has passed both checks (R160). -/
theorem exec_drw_completes {x y : Reg} {n : BitVec 4} {s t : State} (h : exec (.drw x y n) s = .next t)
    (hrun : t.halted = false) : (n = 0 ∨ s.idx.toNat + n.toNat ≤ 0x1000) ∧ s.SpriteOnGrid x y n := by
  have hnot (f : FaultReport) : exec (.drw x y n) s ≠ .next (s.raise f) := fun hraise => by
    obtain rfl := Host.Outcome.next.inj (h.symm.trans hraise)
    cases hrun
  have haddr : n = 0 ∨ s.idx.toNat + n.toNat ≤ 0x1000 := by
    by_contra hbad
    rw [not_or, Nat.not_le] at hbad
    exact hnot _ (exec_drw_of_bad_address x y hbad.1 hbad.2)
  refine ⟨haddr, fun px py hhit => ?_⟩
  by_contra hout
  exact hnot _ (exec_drw_of_off_grid haddr hhit (by omega))

/-- A draw whose origin is not in register 15 leaves the sprite where it was, so it hits the same cells again. -/
theorem State.SpriteOnGrid.drawHits_drawn {s : State} {x y : Reg} {n : BitVec 4} (h : s.SpriteOnGrid x y n)
    (hx : x ≠ 15) (hy : y ≠ 15) (px py : Nat) :
    ((s.drawCells (s.drawTargets x y n)).advance 2).drawHits x y n px py = s.drawHits x y n px py :=
  State.drawHits_congr (s.drawCells_idx _) (h.reg_drawn_of_ne hx) (h.reg_drawn_of_ne hy)
    (s.drawCells_advance_kept _ 2 .mem (by simp)) n px py

end Sys2Proof.Machine

open Sys2Proof Sys2Proof.Machine

/-- Settles O57: the first draw leaves the origin, `I` and memory, so the second toggles the same cells, which the first
left on. -/
theorem drawTwiceRestores : Obligations.DrawTwiceRestores := by
  unfold Obligations.DrawTwiceRestores
  intro x y n s t u hx hy hfirst hrun hrun' hsecond hclear
  obtain ⟨haddr, hgrid⟩ := exec_drw_completes hfirst hrun'
  have ht := Host.Outcome.next.inj (hfirst.symm.trans (exec_drw_of_on_grid haddr hgrid))
  have hhits (px py : Nat) : t.drawHits x y n px py = s.drawHits x y n px py := by
    rw [ht, hgrid.drawHits_drawn hx hy]
  have hfb (px py : Nat) : t.fbGet px py = (s.fbGet px py ^^ s.drawHits x y n px py) := by
    rw [ht, State.advance_fbGet, hgrid.fbGet_drawn]
  have haddr' : n = 0 ∨ t.idx.toNat + n.toNat ≤ 0x1000 := by
    rwa [ht, State.advance_idx, State.drawCells_idx]
  have hgrid' : t.SpriteOnGrid x y n := fun px py hhit => hgrid px py ((hhits px py).symm.trans hhit)
  have hu := Host.Outcome.next.inj (hsecond.symm.trans (exec_drw_of_on_grid haddr' hgrid'))
  refine ⟨?_, fun px py => ?_, ?_, fun hflag => ?_, fun ⟨px, py, hhit⟩ => ?_⟩
  · rw [hu, State.advance_halted, State.drawCells_halted, hrun']
  · rw [hu, State.advance_fbGet, hgrid'.fbGet_drawn, hfb, hhits, Bool.xor_assoc, Bool.xor_self, Bool.xor_false]
  · rw [ht, State.advance_reg, hgrid.flag_drawn_of_clear hclear]
  · by_contra hnone
    rw [not_exists] at hnone
    rw [hu, State.advance_reg, hgrid'.flag_drawn_of_clear fun px py hhit => ?_] at hflag
    · cases hflag
    · exact absurd ⟨py, hhits px py ▸ hhit⟩ (hnone px)
  · rw [hu, State.advance_reg]
    refine hgrid'.flag_drawn_of_collision ⟨px, py, (hhits px py).trans hhit, ?_⟩
    rw [hfb, hclear px py hhit, hhit]
    rfl

/-- Settles O55: the room from 0x200 to the end of memory is 3584 bytes, and a load that fits is a block store there. -/
theorem loadProgramCopiesOrRefuses : Obligations.LoadProgramCopiesOrRefuses := by
  unfold Obligations.LoadProgramCopiesOrRefuses
  intro s bytes
  exact ⟨fun hfits => ⟨_, s.loadProgram_of_fits (by omega), fun a => s.readByte_storeBytes 0x200 a bytes,
    s.storeBytes_kept 0x200 bytes⟩, fun hlarge => s.loadProgram_of_too_large (by omega)⟩

/-- Settles O56: after the CALL the depth is one more and the top entry is the CALL's address; RET takes both back. -/
theorem callThenReturn : Obligations.CallThenReturn := by
  unfold Obligations.CallThenReturn
  intro nnn s t u hroom hcall hsp htop
  obtain rfl := Host.Outcome.next.inj (hcall.symm.trans (exec_call_of_room nnn hroom))
  rw [State.setPc_sp, State.push_sp] at hsp
  rw [State.setPc_stackAt, State.setPc_sp, State.push_sp, State.stackAt_push, if_pos rfl] at htop
  have hne : u.sp ≠ 0 := by
    rw [hsp]
    bv_omega
  refine ⟨_, exec_ret_of_nonempty hne, ?_, ?_⟩
  · rw [State.setPc_pc, htop]
  · rw [State.setPc_sp, State.dropTop_sp, hsp, BitVec.add_sub_cancel]

/-- Settles O60: the luminance is the bit, the alpha the one constant. -/
theorem pixelShowsTheCell : Obligations.PixelShowsTheCell := by
  unfold Obligations.PixelShowsTheCell
  intro s px py
  refine ⟨?_, rfl⟩
  rw [State.pixel, apply_ite BitVec.toNat]
  rfl

end
